-- ==== Sys2Proof/Word.lean ====
section
/-! DEFINITION. The plain words of the block (00_scope.md rule R15) and the eight-fold bank that holds
"one per channel" and "one per telemetry kind" data. -/

namespace Sys2Proof

/-- `u8`, one byte (R15). -/
abbrev Byte := BitVec 8

/-- `u16` or `i16`: 16 bits, read as signed with `BitVec.toInt` (R15). -/
abbrev Half := BitVec 16

/-- `u32` or `i32`: 32 bits, read as signed with `BitVec.toInt` (R15). -/
abbrev Word := BitVec 32

/-- Eight like things: the eight radio channels (`N_CH = 8`, R11) or the eight telemetry records (R27). -/
structure Bank (α : Type) where
  c0 : α
  c1 : α
  c2 : α
  c3 : α
  c4 : α
  c5 : α
  c6 : α
  c7 : α
deriving DecidableEq, Repr

/-- The element with number `i`. -/
def Bank.get {α : Type} (b : Bank α) (i : Fin 8) : α :=
  match i.val with
  | 0 => b.c0
  | 1 => b.c1
  | 2 => b.c2
  | 3 => b.c3
  | 4 => b.c4
  | 5 => b.c5
  | 6 => b.c6
  | _ => b.c7

/-- The bank whose element `i` is `f i`. -/
def Bank.ofFn {α : Type} (f : Fin 8 → α) : Bank α :=
  ⟨f 0, f 1, f 2, f 3, f 4, f 5, f 6, f 7⟩

/-- Every element is `a`. -/
def Bank.fill {α : Type} (a : α) : Bank α := Bank.ofFn fun _ => a

/-- Element `i` replaced by `a`, the other seven kept. -/
def Bank.set {α : Type} (b : Bank α) (i : Fin 8) (a : α) : Bank α :=
  Bank.ofFn fun j => if j = i then a else b.get j

/-- The eight numbers in increasing order: "for c = 0 to 7" of the pseudocode. -/
def channels : List (Fin 8) := [0, 1, 2, 3, 4, 5, 6, 7]

end Sys2Proof
end

