-- ==== Sys2Proof/Config.lean ====
section
/-! DEFINITION. The configuration of the block: every parameter of 00_scope.md rules R9 to R14, the
reference configuration `CFG_REF`, the constraints the spec puts on a configuration, the names the
parameters are indexed by, and the one value the spec leaves free. -/

namespace Sys2Proof

/-- The eight telemetry kinds that have a record `REC[k]`, `k = 1..8` (10_state.md R27). -/
inductive RecKind where
  | radio
  | sensors
  | quat
  | computed
  | motors
  | targetQuat
  | debug
  | gps
deriving DecidableEq, Repr

/-- Position of `REC[k]` in the bank of records: kind code minus one (30_encoding.md R76). -/
def RecKind.idx : RecKind → Fin 8
  | .radio => 0
  | .sensors => 1
  | .quat => 2
  | .computed => 3
  | .motors => 4
  | .targetQuat => 5
  | .debug => 6
  | .gps => 7

/-- The kind whose record stands at position `i`; inverse of `RecKind.idx`. -/
def RecKind.ofIdx (i : Fin 8) : RecKind :=
  match i.val with
  | 0 => .radio
  | 1 => .sensors
  | 2 => .quat
  | 3 => .computed
  | 4 => .motors
  | 5 => .targetQuat
  | 6 => .debug
  | _ => .gps

/-- The nine recognised kinds of frame (30_encoding.md R73, R76). -/
inductive Kind where
  | telemetry (k : RecKind)
  | settings
deriving DecidableEq, Repr

/-- The kind code 1 to 9 of the notification port (R76); 0 is never emitted. -/
def Kind.code : Kind → BitVec 4
  | .telemetry k => BitVec.ofNat 4 (k.idx.val + 1)
  | .settings => 9#4

/-- The twelve outbound tokens and control bytes (00_scope.md R12). -/
inductive Token where
  | heartbeat
  | queryPrefs
  | updatePrefs
  | wipePrefs
  | resetRadio
  | revertGyro
  | revertAccel
  | zeroGyro
  | zeroAccel
  | throttleCal
  | thrMax
  | thrEsc
deriving DecidableEq, Repr

/-- Every token, in the order of R12. -/
def Token.all : List Token :=
  [.heartbeat, .queryPrefs, .updatePrefs, .wipePrefs, .resetRadio, .revertGyro, .revertAccel,
   .zeroGyro, .zeroAccel, .throttleCal, .thrMax, .thrEsc]

/-- Gap identifiers (30_encoding.md R87). -/
inductive GapId where
  | uploadSettle
  | chunk
  | warn
  | thrFinal
deriving DecidableEq, Repr

/-- The nine mode tags `MODE_*` (R10). -/
structure ModeTags where
  radio : Byte
  sensors : Byte
  quat : Byte
  computed : Byte
  motors : Byte
  targetQuat : Byte
  debug : Byte
  gps : Byte
  settings : Byte
deriving DecidableEq, Repr

/-- The nine tags in the order of R73. -/
def ModeTags.toList (m : ModeTags) : List Byte :=
  [m.radio, m.sensors, m.quat, m.computed, m.motors, m.targetQuat, m.debug, m.gps, m.settings]

/-- The byte strings of the ten command tokens `CMD_*` (R12). -/
structure Commands where
  heartbeat : List Byte
  queryPrefs : List Byte
  updatePrefs : List Byte
  wipePrefs : List Byte
  resetRadio : List Byte
  revertGyro : List Byte
  revertAccel : List Byte
  zeroGyro : List Byte
  zeroAccel : List Byte
  throttleCal : List Byte
deriving DecidableEq, Repr

/-- One configuration of the block, fixed for a whole run (10_state.md R38). -/
structure Config where
  /-- `ATAN_FULL_TURN` (R9). -/
  atanFullTurn : Nat
  /-- `ATAN_HALF_TURN` (R9, 90_conflicts.md C1). -/
  atanHalfTurn : Nat
  /-- `ATAN_OCTANT` (R9, 90_conflicts.md C2). -/
  atanOctant : Nat
  /-- `ATAN_PRESCALE` (R9). -/
  atanPrescale : Nat
  /-- `ATAN_SMALL_LIMIT` (R9). -/
  atanSmallLimit : Nat
  /-- `ATAN_OUT_SHIFT` (R9). -/
  atanOutShift : Nat
  /-- `ATAN_LUT[1..11]`, first entry for `i = 1`; `ATAN_ITER` is its length (R9, R105). -/
  atanLut : List Nat
  /-- `ATAN_IN_BOUND` (R9). -/
  atanInBound : Nat
  /-- `MODE_*` (R10). -/
  modes : ModeTags
  /-- `REC_SIZE[k]`, at position `k - 1` (R10). -/
  recSize : Bank Nat
  /-- `PREF_SIZE` (R11). -/
  prefSize : Nat
  /-- `PREF_SCALE_OFF[c]` (R11). -/
  scaleOff : Bank Nat
  /-- `PREF_CENTER_OFF[c]` (R11). -/
  centerOff : Bank Nat
  /-- `CK_SEED` (R11). -/
  ckSeed : Word
  /-- `CMD_*` (R12). -/
  cmds : Commands
  /-- `REVERT_SEQ` (R12). -/
  revertSeq : List Token
  /-- `SAMPLING_TICKS` (R13). -/
  samplingTicks : Nat
  /-- `CAPTURE_AT` (R13). -/
  captureAt : Nat
  /-- `MOVE_THRESHOLD` (R13). -/
  moveThreshold : Nat
  /-- `SCALE_NUM` (R13). -/
  scaleNum : Nat
  /-- `TICK_HZ` (R14). -/
  tickHz : Nat
  /-- `HEARTBEAT_PERIOD` in ticks (R14). -/
  heartbeatPeriod : Nat
  /-- `T_UPLOAD_SETTLE_MS` (R14). -/
  uploadSettleMs : Nat
  /-- `T_CHUNK_MS` (R14). -/
  chunkMs : Nat
  /-- `T_WARN_MS` (R14). -/
  warnMs : Nat
  /-- `T_THR_FINAL_MS` (R14). -/
  thrFinalMs : Nat
deriving DecidableEq, Repr

/-- `HDR_LEN` (R10): the frame header of 30_encoding.md R71 is three bytes by its layout. -/
def hdrLen : Nat := 3

/-- `PAYLOAD_MAX` (R10): every `u16` length is legal (R72). -/
def payloadMax : Nat := 65535

/-- `CHUNK` (R11): an upload sends 4 bytes at a time (42_checksum_prefs.md R144). -/
def chunkLen : Nat := 4

/-- `ATAN_ITER` (R9): one iteration per table entry. -/
def Config.atanIter (c : Config) : Nat := c.atanLut.length

/-- `PREF_CK_OFF = PREF_SIZE - 4` (R11). -/
def Config.ckOff (c : Config) : Nat := c.prefSize - 4

/-- The bytes of a token, first byte first (R12). `THR_MAX = 0xFF` and `THR_ESC = 0x00` are given by the
source and are not parameters of choice (30_encoding.md R84). -/
def Config.tokenBytes (c : Config) : Token → List Byte
  | .heartbeat => c.cmds.heartbeat
  | .queryPrefs => c.cmds.queryPrefs
  | .updatePrefs => c.cmds.updatePrefs
  | .wipePrefs => c.cmds.wipePrefs
  | .resetRadio => c.cmds.resetRadio
  | .revertGyro => c.cmds.revertGyro
  | .revertAccel => c.cmds.revertAccel
  | .zeroGyro => c.cmds.zeroGyro
  | .zeroAccel => c.cmds.zeroAccel
  | .throttleCal => c.cmds.throttleCal
  | .thrMax => [0xFF#8]
  | .thrEsc => [0x00#8]

/-- Lower bound in milliseconds on the real time a `Gap` stands for (R14); no rule computes with it. -/
def Config.gapMs (c : Config) : GapId → Nat
  | .uploadSettle => c.uploadSettleMs
  | .chunk => c.chunkMs
  | .warn => c.warnMs
  | .thrFinal => c.thrFinalMs

/-- `CFG_REF`, the reference configuration (00_scope.md section 5). -/
def Config.ref : Config where
  atanFullTurn := 16384
  atanHalfTurn := 8192
  atanOctant := 2048
  atanPrescale := 4096
  atanSmallLimit := 65536
  atanOutShift := 2
  atanLut := [4836, 2555, 1297, 651, 326, 163, 81, 41, 20, 10, 5]
  atanInBound := 262144
  modes :=
    { radio := 0x01, sensors := 0x02, quat := 0x03, computed := 0x04, motors := 0x05
      targetQuat := 0x06, debug := 0x07, gps := 0x08, settings := 0x09 }
  recSize := ⟨18, 24, 16, 32, 16, 16, 16, 32⟩
  prefSize := 72
  scaleOff := ⟨0, 8, 16, 24, 32, 40, 48, 56⟩
  centerOff := ⟨4, 12, 20, 28, 36, 44, 52, 60⟩
  ckSeed := 0x55555555
  cmds :=
    { heartbeat := [0x48, 0x52, 0x54, 0x42]
      queryPrefs := [0x51, 0x50, 0x52, 0x46]
      updatePrefs := [0x55, 0x50, 0x52, 0x46]
      wipePrefs := [0x57, 0x50, 0x52, 0x46]
      resetRadio := [0x52, 0x52, 0x41, 0x44]
      revertGyro := [0x52, 0x47, 0x59, 0x52]
      revertAccel := [0x52, 0x41, 0x43, 0x43]
      zeroGyro := [0x5A, 0x47, 0x59, 0x52]
      zeroAccel := [0x5A, 0x41, 0x43, 0x43]
      throttleCal := [0x54, 0x43, 0x41, 0x4C] }
  revertSeq := [.revertGyro, .revertAccel]
  samplingTicks := 600
  captureAt := 550
  moveThreshold := 30
  scaleNum := 2097152
  tickHz := 40
  heartbeatPeriod := 20
  uploadSettleMs := 50
  chunkMs := 5
  warnMs := 3000
  thrFinalMs := 5000

/-! ### What the spec asks of a configuration -/

/-- R9, R105 and decision D14: the table has eleven entries, an octant is an eighth of a turn, and the prescale
of a small operand stays in range. That twice `ATAN_HALF_TURN` is `ATAN_FULL_TURN` no rule asks of a configuration
(90_conflicts.md C1 keeps the half turn a parameter of its own): DESIGN CHOICE, safe, assumption 23. -/
abbrev Config.AtanOk (c : Config) : Prop :=
  c.atanLut.length = 11 ∧ c.atanOctant * 8 = c.atanFullTurn ∧ c.atanHalfTurn * 2 = c.atanFullTurn ∧
    c.atanSmallLimit * 0x1000 ≤ 2 ^ 29

/-- R10: the nine tags are pairwise different and none is `0x7F`. -/
abbrev Config.ModesOk (c : Config) : Prop :=
  c.modes.toList.Nodup ∧ 0x7F#8 ∉ c.modes.toList

/-- The radio record holds the fields of 10_state.md R28. DEDUCED from 20_memory.md R50 ("no rule of
this spec performs an access outside a space"), safe (assumption 15). -/
abbrev Config.RecsOk (c : Config) : Prop :=
  18 ≤ c.recSize.c0

/-- The sixteen fields of `PREF` that the block interprets, as offset and width (30_encoding.md R79). -/
def Config.prefFields (c : Config) : List (Nat × Nat) :=
  (channels.map fun ch => (c.scaleOff.get ch, 4)) ++ channels.map fun ch => (c.centerOff.get ch, 2)

/-- R11 and 20_memory.md R56: size a multiple of 4 and at least 8, every field inside
`[0, PREF_SIZE - 4)`, no two fields overlapping. -/
abbrev Config.PrefOk (c : Config) : Prop :=
  8 ≤ c.prefSize ∧ c.prefSize % 4 = 0 ∧ (∀ f ∈ c.prefFields, f.1 + f.2 ≤ c.ckOff) ∧
    c.prefFields.Pairwise fun f g => f.1 + f.2 ≤ g.1 ∨ g.1 + g.2 ≤ f.1

/-- R12: the heartbeat and the seven verbs that the source gives a length have four bytes. -/
abbrev Config.CmdsOk (c : Config) : Prop :=
  ∀ t ∈ [c.cmds.heartbeat, c.cmds.queryPrefs, c.cmds.wipePrefs, c.cmds.resetRadio,
    c.cmds.revertGyro, c.cmds.revertAccel, c.cmds.zeroGyro, c.cmds.zeroAccel], t.length = 4

/-- R13, and `SCALE_NUM > 0`, which the domain of `ROUND_DIV` asks for (R174; DEDUCED, safe,
assumption 15). -/
abbrev Config.CalOk (c : Config) : Prop :=
  1 ≤ c.captureAt ∧ c.captureAt ≤ c.samplingTicks ∧ c.samplingTicks < 2 ^ 32 ∧ 0 < c.scaleNum

/-- R14: `1 <= HEARTBEAT_PERIOD < 2^16`. -/
abbrev Config.HeartbeatOk (c : Config) : Prop :=
  1 ≤ c.heartbeatPeriod ∧ c.heartbeatPeriod < 2 ^ 16

/-- Every constraint of 00_scope.md section 5 together, with the three the model adds: the half turn (assumption
23), the size of the radio record and the sign of `SCALE_NUM` (assumption 15). -/
abbrev Config.Valid (c : Config) : Prop :=
  c.AtanOk ∧ c.ModesOk ∧ c.RecsOk ∧ c.PrefOk ∧ c.CmdsOk ∧ c.CalOk ∧ c.HeartbeatOk

/-- No two of the twelve tokens have the same bytes. The spec does not ask for it; `CFG_REF` has it, and
reading a token back from its bytes needs it. -/
abbrev Config.TokensDistinct (c : Config) : Prop :=
  (Token.all.map c.tokenBytes).Nodup

/-! ### The one free value -/

/-- The result of an `ATAN2` query outside its domain with `y ≠ 0`: "any 16-bit value" (40_atan2.md R111,
93_implementation_defined.md U1). A free value (DESIGN CHOICE, safe, assumption 7): nothing is known
of it. The first argument counts the free values the machine has used, the others are the operands. -/
opaque Config.freeAngle : Nat → Word → Word → Half

end Sys2Proof
end

