-- ==== Sys2Proof/Syntax.lean ====
section
/-! DEFINITION. The operations of the block, one constructor per row of the opcode table (30_encoding.md
R70), and the words they arrive or leave in. -/

namespace Sys2Proof

/-- The four states of the radio calibration (10_state.md R24); all four codes of `cal_step` are legal. -/
inductive CalStep where
  | idle
  | reset
  | sampling
  | apply
deriving DecidableEq, Repr

/-- The two bits of `cal_step` as `STATUS[1:0]` shows them (R24, R34). -/
def CalStep.code : CalStep → BitVec 2
  | .idle => 0#2
  | .reset => 1#2
  | .sampling => 2#2
  | .apply => 3#2

/-- The four values of `thr_cycle` (R24); all four codes are legal. -/
inductive ThrCycle where
  | c0
  | c1
  | c2
  | c3
deriving DecidableEq, Repr

/-- The two bits of `thr_cycle` as `STATUS[3:2]` shows them (R24, R34). -/
def ThrCycle.code : ThrCycle → BitVec 2
  | .c0 => 0#2
  | .c1 => 1#2
  | .c2 => 2#2
  | .c3 => 3#2

/-- A `Packet` (10_state.md R23). Its `length` field is the number of its payload bytes, since a frame is
handed over only when all of them are there (41_framer_dispatch.md R121). -/
structure Packet where
  mode : Byte
  payload : List Byte
deriving DecidableEq, Repr

/-- One item of the `UPLOAD_STREAM` row's pattern: a token, a gap, or the next four bytes of `PREF`. -/
inductive StreamItem where
  | token (t : Token)
  | gap (g : GapId)
  | prefChunk
deriving DecidableEq, Repr

/-- The operations of the block: one constructor per row of the opcode table. -/
inductive Instr where
  /-- `ATAN2(x, y)` (R100). -/
  | atan2 (x y : Word)
  /-- `RX_BYTE(b)` (R120). -/
  | rxByte (b : Byte)
  /-- `TICK` (R200). -/
  | tick
  /-- `HOST_MEM` read (R66). -/
  | hostMemRead (space : BitVec 4) (addr : Half)
  /-- `HOST_MEM` write (R67). -/
  | hostMemWrite (space : BitVec 4) (addr : Half) (data : Byte)
  /-- `FRAME.RADIO` (R127). -/
  | frameRadio (payload : List Byte)
  /-- `FRAME.SENSORS` (R128). -/
  | frameSensors (payload : List Byte)
  /-- `FRAME.QUAT` (R129). -/
  | frameQuat (payload : List Byte)
  /-- `FRAME.COMPUTED` (R130). -/
  | frameComputed (payload : List Byte)
  /-- `FRAME.MOTORS` (R131). -/
  | frameMotors (payload : List Byte)
  /-- `FRAME.TARGET_QUAT` (R132). -/
  | frameTargetQuat (payload : List Byte)
  /-- `FRAME.DEBUG` (R133). -/
  | frameDebug (payload : List Byte)
  /-- `FRAME.GPS` (R134). -/
  | frameGps (payload : List Byte)
  /-- `FRAME.SETTINGS` (R135). -/
  | frameSettings (payload : List Byte)
  /-- `FRAME.UNKNOWN` (R125), with the mode it carries. -/
  | frameUnknown (mode : Byte) (payload : List Byte)
  /-- `REQ.NOP` (R203). -/
  | reqNop
  /-- `REQ.START_RADIO_CAL` (R166). -/
  | reqStartRadioCal
  /-- `REQ.LEAVE_VIEW` (R179). -/
  | reqLeaveView
  /-- `REQ.THR_ADVANCE` with its `ACK` bit (R186). -/
  | reqThrAdvance (ack : Bool)
  /-- `REQ.THR_CANCEL` (R191). -/
  | reqThrCancel
  /-- `REQ.UPLOAD_PREFS` (R144). -/
  | reqUploadPrefs
  /-- `REQ.QUERY_PREFS` (R147). -/
  | reqQueryPrefs
  /-- `REQ.WIPE_PREFS` (R148). -/
  | reqWipePrefs
  /-- `REQ.RESET_RADIO` (R149). -/
  | reqResetRadio
  /-- `REQ.REVERT_GYRO` (R150). -/
  | reqRevertGyro
  /-- `REQ.REVERT_ACCEL` (R151). -/
  | reqRevertAccel
  /-- `REQ.ZERO_GYRO` (R152). -/
  | reqZeroGyro
  /-- `REQ.ZERO_ACCEL` (R153). -/
  | reqZeroAccel
  /-- `REQ.MOTOR_TEST` (R209). -/
  | reqMotorTest
  /-- `REQ.RESERVED_E` (R209). -/
  | reqReservedE
  /-- `REQ.RESERVED_F` (R209). -/
  | reqReservedF
  /-- `THR.0TO1` with the `ACK` bit it samples (R187). -/
  | thr0to1 (ack : Bool)
  /-- `THR.1TO2` (R188). -/
  | thr1to2
  /-- `THR.2TO3` (R189). -/
  | thr2to3
  /-- `THR.3TO0` (R190). -/
  | thr3to0
  /-- `CAL.IDLE` (R167). -/
  | calIdle
  /-- `CAL.RESET` (R168). -/
  | calReset
  /-- `CAL.SAMPLING` (R169). -/
  | calSampling
  /-- `CAL.APPLY` (R173). -/
  | calApply
  /-- `HEARTBEAT` (R201). -/
  | heartbeat
  /-- `TOKEN.HEARTBEAT` (R201). -/
  | tokenHeartbeat
  /-- `TOKEN.QUERY_PREFS` (R147). -/
  | tokenQueryPrefs
  /-- `TOKEN.UPDATE_PREFS` (R144). -/
  | tokenUpdatePrefs
  /-- `TOKEN.WIPE_PREFS` (R148). -/
  | tokenWipePrefs
  /-- `TOKEN.RESET_RADIO` (R149). -/
  | tokenResetRadio
  /-- `TOKEN.REVERT_GYRO` (R150). -/
  | tokenRevertGyro
  /-- `TOKEN.REVERT_ACCEL` (R151). -/
  | tokenRevertAccel
  /-- `TOKEN.ZERO_GYRO` (R152). -/
  | tokenZeroGyro
  /-- `TOKEN.ZERO_ACCEL` (R153). -/
  | tokenZeroAccel
  /-- `TOKEN.THROTTLE_CAL` (R187). -/
  | tokenThrottleCal
  /-- `TOKEN.THR_MAX` (R188). -/
  | tokenThrMax
  /-- `TOKEN.THR_ESC` (R191). -/
  | tokenThrEsc
  /-- `UPLOAD_STREAM` (R85, R144). -/
  | uploadStream
deriving DecidableEq, Repr

/-- The word an operation is presented in: which interface carries it, and its raw bits. The first five
are what the environment can strobe (10_state.md R33, 45_tick_loop.md R204); the others are the block's
own interfaces between its units and towards the device. -/
inductive OpWord where
  /-- The ATAN2 port: `ATAN_X` then `ATAN_Y` (R88). -/
  | atan (w : BitVec 64)
  /-- `RX_DATA` under `RX_VALID` (R33). -/
  | rx (w : Byte)
  /-- The pulse `TICK_IN = 1` (R33). -/
  | tick
  /-- `MEM_WE`, `MEM_SPACE`, `MEM_ADDR`, `MEM_WDATA` under `MEM_VALID`, most significant first (R33). -/
  | mem (w : BitVec 29)
  /-- `REQ` under `REQ_VALID` (R80). -/
  | req (w : Byte)
  /-- The bytes of one inbound frame, from the FRAMER to the DISPATCHER (R71). -/
  | frame (bytes : List Byte)
  /-- A `THR_ADVANCE` request word together with the `thr_cycle` that selects the transition (R186). -/
  | thr (cycle : ThrCycle) (w : Byte)
  /-- The tick pulse in the calibration phase, with the `cal_step` that selects the rule (R165). -/
  | calPhase (sel : CalStep)
  /-- The tick pulse in the heartbeat phase (R201). -/
  | heartbeatPhase
  /-- The bytes of one outbound token, first byte first (R83). -/
  | token (bytes : List Byte)
  /-- The pattern of the upload stream (R85). -/
  | stream (items : List StreamItem)
deriving DecidableEq, Repr

/-- The four formats of the opcode table, and `phase` for the `PORT` rows that a phase of the tick
selects. -/
inductive Format where
  | port
  | req
  | frame
  | phase
  | token
deriving DecidableEq, Repr

/-- The format a word travels in (R70). -/
def OpWord.format : OpWord → Format
  | .atan _ | .rx _ | .tick | .mem _ => .port
  | .req _ | .thr _ _ => .req
  | .frame _ => .frame
  | .calPhase _ | .heartbeatPhase => .phase
  | .token _ | .stream _ => .token

/-- The format of an operation's row of the opcode table. -/
def Instr.format : Instr → Format
  | .atan2 _ _ | .rxByte _ | .tick | .hostMemRead _ _ | .hostMemWrite _ _ _ => .port
  | .frameRadio _ | .frameSensors _ | .frameQuat _ | .frameComputed _ | .frameMotors _
  | .frameTargetQuat _ | .frameDebug _ | .frameGps _ | .frameSettings _ | .frameUnknown _ _ => .frame
  | .reqNop | .reqStartRadioCal | .reqLeaveView | .reqThrAdvance _ | .reqThrCancel | .reqUploadPrefs
  | .reqQueryPrefs | .reqWipePrefs | .reqResetRadio | .reqRevertGyro | .reqRevertAccel | .reqZeroGyro
  | .reqZeroAccel | .reqMotorTest | .reqReservedE | .reqReservedF
  | .thr0to1 _ | .thr1to2 | .thr2to3 | .thr3to0 => .req
  | .calIdle | .calReset | .calSampling | .calApply | .heartbeat => .phase
  | .tokenHeartbeat | .tokenQueryPrefs | .tokenUpdatePrefs | .tokenWipePrefs | .tokenResetRadio
  | .tokenRevertGyro | .tokenRevertAccel | .tokenZeroGyro | .tokenZeroAccel | .tokenThrottleCal
  | .tokenThrMax | .tokenThrEsc | .uploadStream => .token

/-- The words the environment can present: the step kinds of 45_tick_loop.md R204. -/
def OpWord.external : OpWord → Bool
  | .atan _ | .rx _ | .tick | .mem _ | .req _ => true
  | .frame _ | .thr _ _ | .calPhase _ | .heartbeatPhase | .token _ | .stream _ => false

end Sys2Proof
end

