-- ==== Sys2Proof/WellFormed.lean ====
section
/-! DEFINITION. Which operations can be written down as words: a frame's payload fits its 16-bit length
field (30_encoding.md R72), and an unknown frame carries no known tag (R74). -/

namespace Sys2Proof

/-- A payload length the `u16` length field can name (R72). -/
def payloadOk (payload : List Byte) : Bool := decide (payload.length ≤ payloadMax)

/-- The operation has an encoding under configuration `c`. -/
def Instr.wf (c : Config) : Instr → Bool
  | .frameRadio p | .frameSensors p | .frameQuat p | .frameComputed p | .frameMotors p
  | .frameTargetQuat p | .frameDebug p | .frameGps p | .frameSettings p => payloadOk p
  | .frameUnknown m p => payloadOk p && !(c.modes.toList.contains m)
  | .atan2 _ _ | .rxByte _ | .tick | .hostMemRead _ _ | .hostMemWrite _ _ _
  | .reqNop | .reqStartRadioCal | .reqLeaveView | .reqThrAdvance _ | .reqThrCancel | .reqUploadPrefs
  | .reqQueryPrefs | .reqWipePrefs | .reqResetRadio | .reqRevertGyro | .reqRevertAccel | .reqZeroGyro
  | .reqZeroAccel | .reqMotorTest | .reqReservedE | .reqReservedF
  | .thr0to1 _ | .thr1to2 | .thr2to3 | .thr3to0
  | .calIdle | .calReset | .calSampling | .calApply | .heartbeat
  | .tokenHeartbeat | .tokenQueryPrefs | .tokenUpdatePrefs | .tokenWipePrefs | .tokenResetRadio
  | .tokenRevertGyro | .tokenRevertAccel | .tokenZeroGyro | .tokenZeroAccel | .tokenThrottleCal
  | .tokenThrMax | .tokenThrEsc | .uploadStream => true

end Sys2Proof
end

