-- ==== Sys2Proof/Decode.lean ====
section
/-! DEFINITION. Decoding the words of 30_encoding.md into operations, total and rejecting by name, and
after it the encoder, both written from the same tables (R71 to R88). -/

namespace Sys2Proof

/-- Why a word is no operation. Only words of the block's own interfaces can be so: every word the
environment can present decodes (R89). -/
inductive DecodeError where
  /-- The bytes are no complete frame (R121 returns `None`). Safe. -/
  | incompleteFrame
  /-- The bytes go on after the frame's last byte (R72). Safe. -/
  | bytesAfterFrame
  /-- A throttle transition presented with a request word that is not `THR_ADVANCE` (R186). Safe. -/
  | notThrAdvance
  /-- The bytes are none of the twelve tokens (R83). Safe. -/
  | unknownToken
  /-- The pattern is not the upload stream's (R85). Safe. -/
  | unknownStream
deriving DecidableEq, Repr

/-! ### Fields -/

/-- The bit slice of `len` bits from bit `lo` up (`v[hi:lo]` of R15). -/
def bitField {n : Nat} (w : BitVec n) (lo len : Nat) : BitVec len := w.extractLsb' lo len

/-- `le16` of two bytes, lowest first (R16, R55). -/
def le16Of (b0 b1 : Byte) : Half := b1 ++ b0

/-- `le32` of four bytes, lowest first (R16, R55). -/
def le32Of (b0 b1 b2 b3 : Byte) : Word := b3 ++ b2 ++ b1 ++ b0

/-- The two bytes of a 16-bit value, lowest first (`bytes_le(v, 2)`, R16). -/
def bytesOfHalf (v : Half) : List Byte := [bitField v 0 8, bitField v 8 8]

/-- The four bytes of a 32-bit value, lowest first (`bytes_le(v, 4)`, R16). -/
def bytesOfWord (v : Word) : List Byte :=
  [bitField v 0 8, bitField v 8 8, bitField v 16 8, bitField v 24 8]

/-! ### Inbound frames -/

/-- The kind a mode byte selects, by exact comparison with the nine tags (R73); `none` is an unknown
mode (R74). -/
def kindOfMode (c : Config) (m : Byte) : Option Kind :=
  if m = c.modes.radio then some (.telemetry .radio)
  else if m = c.modes.sensors then some (.telemetry .sensors)
  else if m = c.modes.quat then some (.telemetry .quat)
  else if m = c.modes.computed then some (.telemetry .computed)
  else if m = c.modes.motors then some (.telemetry .motors)
  else if m = c.modes.targetQuat then some (.telemetry .targetQuat)
  else if m = c.modes.debug then some (.telemetry .debug)
  else if m = c.modes.gps then some (.telemetry .gps)
  else if m = c.modes.settings then some .settings
  else none

/-- The first complete frame of a byte stream and the bytes after it, `none` while the head frame is
incomplete: the byte part of `NEXT_PACKET` (41_framer_dispatch.md R121; layout R71, R72). -/
def nextFrame : List Byte → Option (Packet × List Byte)
  | mode :: l0 :: l1 :: rest =>
    let length := (le16Of l0 l1).toNat
    if rest.length < length then none
    else some (⟨mode, rest.take length⟩, rest.drop length)
  | _ => none

/-- The operation of a frame of a telemetry kind (R73). -/
def telemetryInstr (k : RecKind) (payload : List Byte) : Instr :=
  match k with
  | .radio => .frameRadio payload
  | .sensors => .frameSensors payload
  | .quat => .frameQuat payload
  | .computed => .frameComputed payload
  | .motors => .frameMotors payload
  | .targetQuat => .frameTargetQuat payload
  | .debug => .frameDebug payload
  | .gps => .frameGps payload

/-- The operation that decodes a packet (R73, R74). -/
def frameInstr (c : Config) (p : Packet) : Instr :=
  match kindOfMode c p.mode with
  | some (.telemetry k) => telemetryInstr k p.payload
  | some .settings => .frameSettings p.payload
  | none => .frameUnknown p.mode p.payload

/-- One frame, exactly. -/
def decodeFrame (c : Config) (bytes : List Byte) : Except DecodeError Instr :=
  match nextFrame bytes with
  | none => .error .incompleteFrame
  | some (p, []) => .ok (frameInstr c p)
  | some (_, _ :: _) => .error .bytesAfterFrame

/-! ### Ports and requests -/

/-- `ATAN_X` then `ATAN_Y` (R88). -/
def decodeAtan (w : BitVec 64) : Instr := .atan2 (bitField w 32 32) (bitField w 0 32)

/-- The memory port: `MEM_WE` selects, `MEM_WDATA` is read by a write only (R33; 20_memory.md R66, R67). -/
def decodeMem (w : BitVec 29) : Instr :=
  if bitField w 28 1 = 1#1 then .hostMemWrite (bitField w 24 4) (bitField w 8 16) (bitField w 0 8)
  else .hostMemRead (bitField w 24 4) (bitField w 8 16)

/-- `OP = REQ[3:0]` (R80). -/
def reqOp (w : Byte) : BitVec 4 := bitField w 0 4

/-- `ACK = REQ[4]` (R80). -/
def reqAck (w : Byte) : Bool := bitField w 4 1 = 1#1

/-- The request codes (R81); `REQ[7:5]` is ignored (R80). -/
def decodeReq (w : Byte) : Instr :=
  match (reqOp w).toNat with
  | 0x0 => .reqNop
  | 0x1 => .reqStartRadioCal
  | 0x2 => .reqLeaveView
  | 0x3 => .reqThrAdvance (reqAck w)
  | 0x4 => .reqThrCancel
  | 0x5 => .reqUploadPrefs
  | 0x6 => .reqQueryPrefs
  | 0x7 => .reqWipePrefs
  | 0x8 => .reqResetRadio
  | 0x9 => .reqRevertGyro
  | 0xA => .reqRevertAccel
  | 0xB => .reqZeroGyro
  | 0xC => .reqZeroAccel
  | 0xD => .reqMotorTest
  | 0xE => .reqReservedE
  | _ => .reqReservedF

/-- The transition that a `THR_ADVANCE` word makes in cycle `cycle` (44_throttle_cal.md R186). -/
def decodeThr (cycle : ThrCycle) (w : Byte) : Except DecodeError Instr :=
  if reqOp w = 3#4 then
    match cycle with
    | .c0 => .ok (.thr0to1 (reqAck w))
    | .c1 => .ok .thr1to2
    | .c2 => .ok .thr2to3
    | .c3 => .ok .thr3to0
  else .error .notThrAdvance

/-- The calibration rule that `cal_step` selects (43_radio_cal.md R165). -/
def decodeCal : CalStep → Instr
  | .idle => .calIdle
  | .reset => .calReset
  | .sampling => .calSampling
  | .apply => .calApply

/-! ### Outbound tokens -/

/-- The operation that sends a token. -/
def tokenInstr : Token → Instr
  | .heartbeat => .tokenHeartbeat
  | .queryPrefs => .tokenQueryPrefs
  | .updatePrefs => .tokenUpdatePrefs
  | .wipePrefs => .tokenWipePrefs
  | .resetRadio => .tokenResetRadio
  | .revertGyro => .tokenRevertGyro
  | .revertAccel => .tokenRevertAccel
  | .zeroGyro => .tokenZeroGyro
  | .zeroAccel => .tokenZeroAccel
  | .throttleCal => .tokenThrottleCal
  | .thrMax => .tokenThrMax
  | .thrEsc => .tokenThrEsc

/-- The token with these bytes (R12, R83). -/
def decodeToken (c : Config) (bytes : List Byte) : Except DecodeError Instr :=
  match Token.all.find? fun t => c.tokenBytes t = bytes with
  | some t => .ok (tokenInstr t)
  | none => .error .unknownToken

/-- The pattern of the upload stream (R85): update token, settle gap, `PREF_SIZE / 4` chunks each with its
gap, query token. -/
def uploadPattern (c : Config) : List StreamItem :=
  [.token .updatePrefs, .gap .uploadSettle] ++
    (List.replicate (c.prefSize / chunkLen) [.prefChunk, .gap .chunk]).flatten ++ [.token .queryPrefs]

/-- The upload stream, recognised by its whole pattern. -/
def decodeStream (c : Config) (items : List StreamItem) : Except DecodeError Instr :=
  if items = uploadPattern c then .ok .uploadStream else .error .unknownStream

/-! ### The decoder -/

/-- The operation a word stands for. -/
def decode (c : Config) : OpWord → Except DecodeError Instr
  | .atan w => .ok (decodeAtan w)
  | .rx w => .ok (.rxByte w)
  | .tick => .ok .tick
  | .mem w => .ok (decodeMem w)
  | .req w => .ok (decodeReq w)
  | .frame bytes => decodeFrame c bytes
  | .thr cycle w => decodeThr cycle w
  | .calPhase sel => .ok (decodeCal sel)
  | .heartbeatPhase => .ok .heartbeat
  | .token bytes => decodeToken c bytes
  | .stream items => decodeStream c items

/-! ### The encoder -/

/-- A frame: mode, length low byte, length high byte, payload (R71, R93). -/
def encodeFrame (mode : Byte) (payload : List Byte) : OpWord :=
  .frame (mode :: bytesOfHalf (BitVec.ofNat 16 payload.length) ++ payload)

/-- A request word: reserved bits 0, `ACK`, `OP` (R80, R92). -/
def encodeReq (op : BitVec 4) (ack : Bool) : Byte := 0#3 ++ (if ack then 1#1 else 0#1) ++ op

/-- The word of an operation. -/
def encode (c : Config) : Instr → OpWord
  | .atan2 x y => .atan (x ++ y)
  | .rxByte b => .rx b
  | .tick => .tick
  | .hostMemRead space addr => .mem (0#1 ++ space ++ addr ++ 0#8)
  | .hostMemWrite space addr data => .mem (1#1 ++ space ++ addr ++ data)
  | .frameRadio p => encodeFrame c.modes.radio p
  | .frameSensors p => encodeFrame c.modes.sensors p
  | .frameQuat p => encodeFrame c.modes.quat p
  | .frameComputed p => encodeFrame c.modes.computed p
  | .frameMotors p => encodeFrame c.modes.motors p
  | .frameTargetQuat p => encodeFrame c.modes.targetQuat p
  | .frameDebug p => encodeFrame c.modes.debug p
  | .frameGps p => encodeFrame c.modes.gps p
  | .frameSettings p => encodeFrame c.modes.settings p
  | .frameUnknown m p => encodeFrame m p
  | .reqNop => .req (encodeReq 0x0 false)
  | .reqStartRadioCal => .req (encodeReq 0x1 false)
  | .reqLeaveView => .req (encodeReq 0x2 false)
  | .reqThrAdvance ack => .req (encodeReq 0x3 ack)
  | .reqThrCancel => .req (encodeReq 0x4 false)
  | .reqUploadPrefs => .req (encodeReq 0x5 false)
  | .reqQueryPrefs => .req (encodeReq 0x6 false)
  | .reqWipePrefs => .req (encodeReq 0x7 false)
  | .reqResetRadio => .req (encodeReq 0x8 false)
  | .reqRevertGyro => .req (encodeReq 0x9 false)
  | .reqRevertAccel => .req (encodeReq 0xA false)
  | .reqZeroGyro => .req (encodeReq 0xB false)
  | .reqZeroAccel => .req (encodeReq 0xC false)
  | .reqMotorTest => .req (encodeReq 0xD false)
  | .reqReservedE => .req (encodeReq 0xE false)
  | .reqReservedF => .req (encodeReq 0xF false)
  | .thr0to1 ack => .thr .c0 (encodeReq 0x3 ack)
  | .thr1to2 => .thr .c1 (encodeReq 0x3 false)
  | .thr2to3 => .thr .c2 (encodeReq 0x3 false)
  | .thr3to0 => .thr .c3 (encodeReq 0x3 false)
  | .calIdle => .calPhase .idle
  | .calReset => .calPhase .reset
  | .calSampling => .calPhase .sampling
  | .calApply => .calPhase .apply
  | .heartbeat => .heartbeatPhase
  | .tokenHeartbeat => .token (c.tokenBytes .heartbeat)
  | .tokenQueryPrefs => .token (c.tokenBytes .queryPrefs)
  | .tokenUpdatePrefs => .token (c.tokenBytes .updatePrefs)
  | .tokenWipePrefs => .token (c.tokenBytes .wipePrefs)
  | .tokenResetRadio => .token (c.tokenBytes .resetRadio)
  | .tokenRevertGyro => .token (c.tokenBytes .revertGyro)
  | .tokenRevertAccel => .token (c.tokenBytes .revertAccel)
  | .tokenZeroGyro => .token (c.tokenBytes .zeroGyro)
  | .tokenZeroAccel => .token (c.tokenBytes .zeroAccel)
  | .tokenThrottleCal => .token (c.tokenBytes .throttleCal)
  | .tokenThrMax => .token (c.tokenBytes .thrMax)
  | .tokenThrEsc => .token (c.tokenBytes .thrEsc)
  | .uploadStream => .stream (uploadPattern c)

/-! ### Words numbered as the opcode table numbers them -/

/-- An 8-bit table word. Several rows of the table share their bits (30_encoding.md R70: the port selects,
not the bits); a bare number names no port, so the row with the most fixed bits is taken: the nine
frame tags (a frame whose length bytes are zero) and the two control bytes, each with eight fixed
bits, before the request codes with four. DESIGN CHOICE, assumption 5. -/
def tableByte (b : Byte) : OpWord :=
  if (kindOfMode Config.ref b).isSome then .frame [b, 0#8, 0#8]
  else if b = 0xFF#8 ∨ b = 0x00#8 then .token [b]
  else .req b

/-- A 32-bit table word: `HOST_MEM.WRITE` has 29 bits with bit 28 set and nothing above; every other word
is read as a token, whose first byte is the most significant (opcode table, `TOKEN` rows). -/
def tableWord32 (w : BitVec 32) : OpWord :=
  if bitField w 28 4 = 1#4 then .mem (bitField w 0 29)
  else .token [bitField w 24 8, bitField w 16 8, bitField w 8 8, bitField w 0 8]

/-- The word that the `nbits`-bit number `w` of the opcode table stands for, under `CFG_REF`. -/
def tableWord (nbits w : Nat) : OpWord :=
  match nbits with
  | 1 => .tick
  | 8 => tableByte (BitVec.ofNat 8 w)
  | 21 => .mem (BitVec.ofNat 29 (w * 256))
  | 24 => .mem (BitVec.ofNat 29 (w * 256))
  | 29 => .mem (BitVec.ofNat 29 w)
  | 32 => tableWord32 (BitVec.ofNat 32 w)
  | 64 => .atan (BitVec.ofNat 64 w)
  | _ => .token []

/-- What the decoder reads from a table word. -/
def decodeTableWord (nbits w : Nat) : Option Instr :=
  (decode Config.ref (tableWord nbits w)).toOption

end Sys2Proof
end

