-- ==== Sys2Proof/Machine/State.lean ====
section
/-! DEFINITION. The state of the block (10_state.md R20 to R41), its reset (R40, R240), and the reasons a
step can stop. -/

namespace Sys2Proof.Machine

/-- One byte-addressed space (20_memory.md R50): the cells whose byte is not `00`, by strictly rising
offset. An offset that is not listed reads as `00`, the reset contents of every space (R40). -/
abbrev Memory := List Host.Cell

/-- One `ChannelCalibrationSample` (R31). -/
structure CalSample where
  /-- `min`, `i16`. -/
  min : Half
  /-- `max`, `i16`. -/
  max : Half
  /-- `start`, `i16`. -/
  start : Half
  /-- The flag `moved` (R26). -/
  moved : Bool
deriving DecidableEq, Repr

/-- A cleared sample: the reset value (R40), which the Reset tick writes too (43_radio_cal.md R168). -/
def CalSample.cleared : CalSample := ⟨0x7FFF#16, 0x8000#16, 0#16, false⟩

/-- Messages of the `MSG` port (30_encoding.md R86). -/
inductive Msg where
  | none
  | warnProps
  | warnBattery
  | thrFinal
deriving DecidableEq, Repr

/-- The code on the `MSG` port (R86). -/
def Msg.code : Msg → BitVec 2
  | .none => 0#2
  | .warnProps => 1#2
  | .warnBattery => 2#2
  | .thrFinal => 3#2

/-- An event of the output trace (R36). -/
inductive OutEvent where
  /-- One byte sent to the device. -/
  | tx (b : Byte)
  /-- A lower bound on real time before the next event (20_memory.md R62). -/
  | gap (g : GapId)
  /-- The "kind changed" notification. -/
  | notify (k : Kind)
  /-- A message code shown. -/
  | msg (m : Msg)
deriving DecidableEq, Repr

/-- The six handled conditions (60_exceptions.md R215). -/
inductive Condition where
  | checksumMismatch
  | interlockProps
  | interlockBattery
  | degenerateRange (ch : Fin 8)
  | unknownMode
  | reservedRequest
deriving DecidableEq, Repr

/-- The code numbers of R215, for traces only. -/
def Condition.code : Condition → Nat
  | .checksumMismatch => 1
  | .interlockProps => 2
  | .interlockBattery => 3
  | .degenerateRange _ => 4
  | .unknownMode => 5
  | .reservedRequest => 6

/-- One line of an event script (30_encoding.md R92, R93): a strobe on one of the block's interfaces, or
the reset event. -/
inductive Event where
  | strobe (w : OpWord)
  | reset
deriving DecidableEq, Repr

/-- The state of the block between two steps. -/
structure State where
  /-- The configuration, fixed for a whole run; no operation writes it (R38). The model's own field
  (DESIGN CHOICE, assumption 1): claims can then speak of every configuration. -/
  cfg : Config
  /-- `RXQ`, oldest byte first (R22). -/
  rxq : List Byte
  /-- `REC[1..8]`, at positions 0 to 7 (R27). -/
  recs : Bank Memory
  /-- `PREF` (R29). -/
  pref : Memory
  /-- `pref_valid` (R26). -/
  prefValid : Bool
  /-- `cal_step` (R24). -/
  calStep : CalStep
  /-- `cal_remaining`, `u32` (R24). -/
  calRemaining : Word
  /-- `cal[0..7]` (R31). -/
  cal : Bank CalSample
  /-- `thr_cycle` (R24). -/
  thrCycle : ThrCycle
  /-- `hb_count`, `u16` (R32). -/
  hbCount : Half
  /-- `OUT`, oldest event first (R36). -/
  out : List OutEvent
  /-- The output port `ATAN_ANGLE`: the value last driven (R34; DESIGN CHOICE, assumption 6). -/
  atanAngle : Half
  /-- The output port `MEM_RDATA`: the value last driven (R34; DESIGN CHOICE, assumption 6). -/
  memRdata : Byte
  /-- The conditions met since reset, oldest first: the model's trace of R215, which no rule reads
  (DESIGN CHOICE, assumption 11). -/
  conds : List Condition
  /-- The environment's event script still to come, next event first (R92; the model's own field,
  DESIGN CHOICE, assumption 2). -/
  pending : List Event
  /-- How many free values have been used: the model's own counter (DESIGN CHOICE, assumption 7). -/
  freeCount : Nat
deriving DecidableEq, Repr

/-- No step faults: "A step never faults and never blocks" (00_scope.md R17), so there is no reason to
name. -/
inductive Fault where
deriving DecidableEq, Repr

/-- Why a step has no next state. -/
inductive Refusal where
  /-- Raised by a dispatch arm whose operation has no meaning yet; no arm is left so. Safe. -/
  | notModelled (mnemonic : String)
  /-- Raised by the step when the next event of the script carries a word that is no operation; only the
  block's own interfaces can carry such a word, never the environment's (R89). Safe. -/
  | undecodable (e : DecodeError)
deriving DecidableEq, Repr

/-- The state right after reset under a given configuration (R40, R240). `ATAN_ANGLE`, `MEM_RDATA` and the
model's own counter have no reset value in the spec and start at 0 (DESIGN CHOICE, assumptions 6, 7). -/
def State.resetWith (c : Config) : State where
  cfg := c
  rxq := []
  recs := Bank.fill []
  pref := []
  prefValid := false
  calStep := .idle
  calRemaining := 0#32
  cal := Bank.fill CalSample.cleared
  thrCycle := .c0
  hbCount := 0#16
  out := []
  atanAngle := 0#16
  memRdata := 0#8
  conds := []
  pending := []
  freeCount := 0

/-- The state right after reset, in the reference configuration. -/
def State.reset : State := State.resetWith Config.ref

end Sys2Proof.Machine
end

