-- ==== Sys2Proof/Machine/Ops.lean ====
section
/-! DEFINITION. The named operations over the state: the memory spaces (20_memory.md), the output trace
(10_state.md R36), the handled conditions (60_exceptions.md), the event script and the reset event. -/

namespace Sys2Proof.Machine

/-! ### Memory spaces (20_memory.md R50) -/

/-- One byte. -/
def Memory.read : Memory → Nat → Byte
  | [], _ => 0#8
  | (a', b') :: m, a => if a' = a then b' else Memory.read m a

/-- One byte replaced; writing `00` removes the entry, so equal contents are equal lists. -/
def Memory.write : Memory → Nat → Byte → Memory
  | [], a, b => if b = 0#8 then [] else [(a, b)]
  | (a', b') :: m, a, b =>
    if a' < a then (a', b') :: Memory.write m a b
    else if a' = a then (if b = 0#8 then m else (a, b) :: m)
    else if b = 0#8 then (a', b') :: m
    else (a, b) :: (a', b') :: m

/-- `MemRead(space, a, n)` (R16). -/
def Memory.readBytes (m : Memory) (a n : Nat) : List Byte :=
  (List.range n).map fun i => Memory.read m (a + i)

/-- `MemWrite(space, a, n, bs)` with `n` the length of `bs` (R16). -/
def Memory.writeBytes : Memory → Nat → List Byte → Memory
  | m, _, [] => m
  | m, a, b :: bs => Memory.writeBytes (Memory.write m a b) (a + 1) bs

/-- A whole space of `size` bytes: `zeros(size)` with the first bytes replaced by as much of `bs` as fits
(41_framer_dispatch.md R126, R135). -/
def Memory.ofBytes (size : Nat) (bs : List Byte) : Memory :=
  Memory.writeBytes [] 0 (bs.take size)

/-- `le16` of two bytes of a space (R16); `sle16` is its `toInt`. -/
def Memory.half (m : Memory) (a : Nat) : Half := le16Of (Memory.read m a) (Memory.read m (a + 1))

/-- `le32` of four bytes of a space (R16); `sle32` is its `toInt`. -/
def Memory.word (m : Memory) (a : Nat) : Word :=
  le32Of (Memory.read m a) (Memory.read m (a + 1)) (Memory.read m (a + 2)) (Memory.read m (a + 3))

/-- The canonical form: offsets strictly rising, no entry that an unlisted offset reads as. -/
abbrev Memory.wf (m : Memory) : Prop :=
  m.Pairwise (fun p q => p.1 < q.1) ∧ ∀ p ∈ m, p.2 ≠ 0#8

/-- Every listed offset lies inside a space of `size` bytes (R50). -/
abbrev Memory.below (m : Memory) (size : Nat) : Prop := ∀ p ∈ m, p.1 < size

/-! ### Records and spaces of the state -/

/-- `REC[k]` (R27). -/
def State.record (s : State) (k : RecKind) : Memory := s.recs.get k.idx

/-- `REC[k] <- m`. -/
def State.setRecord (s : State) (k : RecKind) (m : Memory) : State :=
  { s with recs := s.recs.set k.idx m }

/-- `REC_SIZE[k]` (00_scope.md R10). -/
def State.recordSize (s : State) (k : RecKind) : Nat := s.cfg.recSize.get k.idx

/-! ### The output trace (R36) -/

/-- `emit` of a list of events, in order (R16). -/
def State.emit (s : State) (es : List OutEvent) : State := { s with out := s.out ++ es }

/-- `emit Tx(bytes)`: one event per byte, first byte first (R16). -/
def txEvents (bytes : List Byte) : List OutEvent := bytes.map .tx

/-- `emit Tx(<token>)` (R83). -/
def State.sendToken (s : State) (t : Token) : State := s.emit (txEvents (s.cfg.tokenBytes t))

/-! ### Handled conditions (60_exceptions.md)

The block has no trap: a condition saves nothing, changes no mode and goes nowhere (R224), there is no
return (R225), and handling is complete inside the step that meets it. -/

/-- The events of `ABORT(m)` (44_throttle_cal.md R192): escape byte, message, gap, message cleared. -/
def abortEvents (c : Config) (m : Msg) : List OutEvent :=
  txEvents (c.tokenBytes .thrEsc) ++ [.msg m, .gap .warn, .msg .none]

/-- `ABORT(m)` (R192). -/
def abortWith (m : Msg) (s : State) : State :=
  { s.emit (abortEvents s.cfg m) with thrCycle := .c0 }

/-- The handling column of R215. -/
def handleCondition (c : Condition) (s : State) : State :=
  match c with
  | .checksumMismatch => s.sendToken .queryPrefs
  | .interlockProps => abortWith .warnProps s
  | .interlockBattery => abortWith .warnBattery s
  | .degenerateRange _ | .unknownMode | .reservedRequest => s

/-- Meeting a condition: note it in the model's trace (R215) and do the whole of its handling. This is the
block's only form of taking an exception, and it ends ready for the next step (R225). -/
def takeCondition (c : Condition) (s : State) : State :=
  handleCondition c { s with conds := s.conds ++ [c] }

/-! ### The event script and the reset event -/

/-- The next event of the environment's script, and the state with it taken off (R92). -/
def fetchEvent (s : State) : Option (Event × State) :=
  match s.pending with
  | [] => none
  | e :: rest => some (e, { s with pending := rest })

/-- The reset event (70_reset_and_hazards.md R240). The configuration survives it (R241); the script still
to come and the free-value counter are the environment's and the model's, not the block's. -/
def applyReset (s : State) : State :=
  { State.resetWith s.cfg with pending := s.pending, freeCount := s.freeCount }

end Sys2Proof.Machine
end

