-- ==== Sys2Proof/Machine/Operands.lean ====
section
/-! DEFINITION. The operands the operations read out of the state: fields of the radio record, fields of
`PREF`, the host's view of the memory spaces (10_state.md R28, 20_memory.md, 30_encoding.md R79). -/

namespace Sys2Proof.Machine

/-! ### The radio record (R28, R75) -/

/-- `ch[c] = sle16(REC[1][2c .. 2c+1])`; the signed value is its `toInt` (R28). -/
def State.channel (s : State) (c : Fin 8) : Half := (s.record .radio).half (2 * c.val)

/-- `batt = le16(REC[1][16 .. 17])` (R28). -/
def State.batt (s : State) : Half := (s.record .radio).half 16

/-! ### The configuration record (R79) -/

/-- `scale[c]`, `i32`. -/
def prefScale (c : Config) (m : Memory) (ch : Fin 8) : Word := m.word (c.scaleOff.get ch)

/-- The stored checksum. -/
def prefChecksum (c : Config) (m : Memory) : Word := m.word c.ckOff

/-! ### Integer operands (00_scope.md R16) -/

/-- `asr(v, n) = floor(v / 2^n)`. -/
def asr (v : Int) (n : Nat) : Int := v / (2 ^ n : Nat)

/-! ### The host's memory port (20_memory.md R53, R58, R66) -/

/-- A space the host can select. -/
inductive Space where
  | pref
  | record (k : RecKind)
  | cal
deriving DecidableEq, Repr

/-- The `MEM_SPACE` codes: 0, 1 to 8, 9; codes 10 to 15 select nothing (R58). -/
def spaceOf (code : BitVec 4) : Option Space :=
  match code.toNat with
  | 0 => some .pref
  | 1 => some (.record .radio)
  | 2 => some (.record .sensors)
  | 3 => some (.record .quat)
  | 4 => some (.record .computed)
  | 5 => some (.record .motors)
  | 6 => some (.record .targetQuat)
  | 7 => some (.record .debug)
  | 8 => some (.record .gps)
  | 9 => some .cal
  | _ => none

/-- The eight bytes of one sample in the `CAL` view (R53). -/
def calSampleBytes (x : CalSample) : List Byte :=
  bytesOfHalf x.min ++ bytesOfHalf x.max ++ bytesOfHalf x.start ++ [if x.moved then 1#8 else 0#8, 0#8]

/-- The 64 bytes of the `CAL` view (R53). -/
def calView (cal : Bank CalSample) : List Byte := channels.flatMap fun c => calSampleBytes (cal.get c)

/-- `MemRead(space, addr, 1)` where `addr` is inside the space, `00` where it is not (R66). -/
def State.spaceByte (s : State) (sp : Space) (addr : Nat) : Byte :=
  match sp with
  | .pref => if addr < s.cfg.prefSize then s.pref.read addr else 0#8
  | .record k => if addr < s.recordSize k then (s.record k).read addr else 0#8
  | .cal => (calView s.cal).getD addr 0#8

/-- What a `HOST_MEM` read answers (R66). -/
def State.hostByte (s : State) (space : BitVec 4) (addr : Half) : Byte :=
  match spaceOf space with
  | some sp => s.spaceByte sp addr.toNat
  | none => 0#8

end Sys2Proof.Machine
end

