-- ==== Sys2Proof/Machine/Flags.lean ====
section
/-! DEFINITION. The one-bit flags (10_state.md R26) and the status ports computed from the state (R34,
R35). The block has no condition codes. -/

namespace Sys2Proof.Machine

/-- The condition that sets `cal[c].moved` on a sampling tick: `abs(current - start) > MOVE_THRESHOLD`, on
mathematical integers (43_radio_cal.md R171). -/
def deviates (threshold : Nat) (start cur : Half) : Bool :=
  decide (threshold < (cur.toInt - start.toInt).natAbs)

/-- The flag `cal[c].moved` after one sample: sticky (R171). -/
def movedAfter (threshold : Nat) (x : CalSample) (cur : Half) : Bool :=
  x.moved || deviates threshold x.start cur

/-- The `STATUS` port: `cal_step` in bits 1:0, `thr_cycle` in bits 3:2, `pref_valid` in bit 4, bits 7:5
zero (R34). -/
def State.statusPort (s : State) : Byte :=
  0#3 ++ (if s.prefValid then 1#1 else 0#1) ++ s.thrCycle.code ++ s.calStep.code

/-- The `CAL_REMAINING` port (R34). -/
def State.calRemainingPort (s : State) : Word := s.calRemaining

/-- The message an event leaves on the `MSG` port, `m` the one before it. -/
def msgAfter (m : Msg) : OutEvent → Msg
  | .msg m' => m'
  | .tx _ | .gap _ | .notify _ => m

/-- The `MSG` port: the code of the last `Msg` event, at rest `NONE` (R35). -/
def State.msgPort (s : State) : Msg := s.out.foldl msgAfter .none

end Sys2Proof.Machine
end

