-- ==== Sys2Proof/Machine/Atan2.lean ====
section
/-! DEFINITION. The ATAN2 unit (40_atan2.md). The arithmetic is on mathematical integers, which R109 allows
(assumption 8). -/

namespace Sys2Proof.Machine

/-- The vector and the octant index while an `ATAN2` step computes (10_state.md R21). -/
structure AtanVec where
  x : Int
  y : Int
  o : Nat
deriving DecidableEq, Repr

/-- First transform: turn by a half turn if `y < 0` (R102). -/
def turnHalf (v : AtanVec) : AtanVec := if v.y < 0 then ⟨-v.x, -v.y, v.o + 4⟩ else v

/-- Second transform: turn back by a quarter turn if `x <= 0` (R102). -/
def turnQuarter (v : AtanVec) : AtanVec := if v.x ≤ 0 then ⟨v.y, -v.x, v.o + 2⟩ else v

/-- Third transform: turn back by an eighth turn, length times `sqrt 2`, if `x <= y` (R102). -/
def turnEighth (v : AtanVec) : AtanVec := if v.x ≤ v.y then ⟨v.x + v.y, v.y - v.x, v.o + 1⟩ else v

/-- Octant reduction, for `y ≠ 0` (R102). -/
def octantReduce (x y : Int) : AtanVec := turnEighth (turnQuarter (turnHalf ⟨x, y, 0⟩))

/-- Prescale of a small reduced vector (R104). -/
def prescale (c : Config) (v : AtanVec) : AtanVec :=
  if v.x < c.atanSmallLimit then ⟨v.x * c.atanPrescale, v.y * c.atanPrescale, v.o⟩ else v

/-- The vector and the accumulated correction during the iterations (R106). -/
structure Cordic where
  x : Int
  y : Int
  dphi : Int
deriving DecidableEq, Repr

/-- One iteration with index `i` and table entry `t` (R106). -/
def cordicStep (i t : Nat) (v : Cordic) : Cordic :=
  if 0 ≤ v.y then ⟨v.x + asr v.y i, v.y - asr v.x i, v.dphi + t⟩
  else ⟨v.x - asr v.y i, v.y + asr v.x i, v.dphi - t⟩

/-- The iterations `i, i + 1, …`, one per entry of the table (R106). -/
def cordicRun : Nat → List Nat → Cordic → Cordic
  | _, [], v => v
  | i, t :: ts, v => cordicRun (i + 1) ts (cordicStep i t v)

/-- Stages two to four for `y ≠ 0`: reduce, prescale, iterate from `i = 1` with `dphi = 0`. Answers the
octant index and the correction (R102, R104, R106). -/
def atanStages (c : Config) (x y : Int) : Nat × Int :=
  let v := prescale c (octantReduce x y)
  (v.o, (cordicRun 1 c.atanLut ⟨v.x, v.y, 0⟩).dphi)

/-- The sum of R107 before it is cut to 16 bits. -/
def atanSum (c : Config) (x y : Int) : Int :=
  let r := atanStages c x y
  r.1 * c.atanOctant + asr r.2 c.atanOutShift

/-- The special case `y = 0` (R101). -/
def atanAxis (c : Config) (x : Int) : Half :=
  if 0 ≤ x then 0#16 else BitVec.ofNat 16 c.atanHalfTurn

/-- The domain of R111. -/
abbrev AtanDomain (c : Config) (x y : Word) : Prop :=
  x.toInt.natAbs ≤ c.atanInBound ∧ y.toInt.natAbs ≤ c.atanInBound

/-- The result, where the rules give one: `y = 0`, or the operands in the domain (R100, R111). -/
def atanResult (c : Config) (x y : Word) : Option Half :=
  if y.toInt = 0 then some (atanAxis c x.toInt)
  else if AtanDomain c x y then some (BitVec.ofInt 16 (atanSum c x.toInt y.toInt))
  else none

/-- `ATAN2(x, y)` (R100): drives `ATAN_ANGLE` and writes nothing else. Outside the domain the value driven
is free (R111, 93_implementation_defined.md U1; assumption 7). -/
def execAtan2 (x y : Word) (s : State) : Host.Outcome State Fault Refusal :=
  match atanResult s.cfg x y with
  | some a => .next { s with atanAngle := a }
  | none =>
    .next { s with atanAngle := Config.freeAngle s.freeCount x y, freeCount := s.freeCount + 1 }

end Sys2Proof.Machine
end

