-- ==== Sys2Proof/Machine/HostMem.lean ====
section
/-! DEFINITION. The host's memory operations (20_memory.md R66, R67). -/

namespace Sys2Proof.Machine

/-- `HOST_MEM` read: drives `MEM_RDATA` and writes nothing else (R66). -/
def execHostMemRead (space : BitVec 4) (addr : Half) (s : State) : Host.Outcome State Fault Refusal :=
  .next { s with memRdata := s.hostByte space addr }

/-- `HOST_MEM` write: one byte of `PREF`, in every other case nothing (R67). -/
def execHostMemWrite (space : BitVec 4) (addr : Half) (data : Byte) (s : State) :
    Host.Outcome State Fault Refusal :=
  .next (if spaceOf space = some .pref ∧ addr.toNat < s.cfg.prefSize then
    { s with pref := s.pref.write addr.toNat data } else s)

end Sys2Proof.Machine
end

