-- ==== Sys2Proof/Machine/Throttle.lean ====
section
/-! DEFINITION. THRCAL, the throttle calibration sequencer (44_throttle_cal.md). -/

namespace Sys2Proof.Machine

/-- `THR.0TO1(ack)`: the propellers interlock (R187). -/
def thrStart (ack : Bool) (s : State) : State :=
  if ack then { s.sendToken .throttleCal with thrCycle := .c1 } else takeCondition .interlockProps s

/-- `THR.1TO2()`: the battery interlock (R188). -/
def thrMaxThrottle (s : State) : State :=
  if s.batt = 0#16 then { s.sendToken .thrMax with thrCycle := .c2 }
  else takeCondition .interlockBattery s

/-- `THR.2TO3()` (R189). -/
def thrMinThrottle (s : State) : State := { s.sendToken .thrEsc with thrCycle := .c3 }

/-- `THR.3TO0()` (R190). -/
def thrFinish (s : State) : State :=
  { (s.sendToken .thrEsc).emit [.msg .thrFinal, .gap .thrFinal, .msg .none] with thrCycle := .c0 }

/-- `THR_ADVANCE(ack)`: one transition, by `thr_cycle` at the start of the step (R186). -/
def thrAdvance (ack : Bool) (s : State) : State :=
  match s.thrCycle with
  | .c0 => thrStart ack s
  | .c1 => thrMaxThrottle s
  | .c2 => thrMinThrottle s
  | .c3 => thrFinish s

/-- `REQ.THR_ADVANCE` (R186). -/
def execReqThrAdvance (ack : Bool) (s : State) : Host.Outcome State Fault Refusal :=
  .next (thrAdvance ack s)

/-- `REQ.THR_CANCEL`: the escape byte and cycle 0, from every cycle (R191). -/
def execReqThrCancel (s : State) : Host.Outcome State Fault Refusal :=
  .next { s.sendToken .thrEsc with thrCycle := .c0 }

/-! ### The transitions as operations of their own

A row that `thr_cycle` selects makes its transition where `thr_cycle` selects it, and does nothing where
`thr_cycle` selects another row (assumption 4). -/

/-- `THR.0TO1` (R187). -/
def execThr0to1 (ack : Bool) (s : State) : Host.Outcome State Fault Refusal :=
  .next (if s.thrCycle = .c0 then thrStart ack s else s)

/-- `THR.1TO2` (R188). -/
def execThr1to2 (s : State) : Host.Outcome State Fault Refusal :=
  .next (if s.thrCycle = .c1 then thrMaxThrottle s else s)

/-- `THR.2TO3` (R189). -/
def execThr2to3 (s : State) : Host.Outcome State Fault Refusal :=
  .next (if s.thrCycle = .c2 then thrMinThrottle s else s)

/-- `THR.3TO0` (R190). -/
def execThr3to0 (s : State) : Host.Outcome State Fault Refusal :=
  .next (if s.thrCycle = .c3 then thrFinish s else s)

end Sys2Proof.Machine
end

