-- ==== Sys2Proof/Machine/Prefs.lean ====
section
/-! DEFINITION. CHECKSUM and the preferences transfer (42_checksum_prefs.md). -/

namespace Sys2Proof.Machine

/-! ### The checksum -/

/-- The loop of `CKSUM`: add the 32-bit little-endian words of the body to `acc`, modulo `2^32` (R140). The
operand's length is a multiple of 4. -/
def cksumFrom (acc : Word) : List Byte → Word
  | b0 :: b1 :: b2 :: b3 :: rest => cksumFrom (acc + le32Of b0 b1 b2 b3) rest
  | _ => acc

/-- `CKSUM(body)` (R140). -/
def cksum (c : Config) (body : List Byte) : Word := cksumFrom c.ckSeed body

/-- The checksum of a record's body, `rec[0 .. PREF_CK_OFF - 1]` (R141, R142). -/
def recordCksum (c : Config) (m : Memory) : Word := cksum c (m.readBytes 0 c.ckOff)

/-- `STAMP(rec)` (R141). -/
def stamp (c : Config) (m : Memory) : Memory := m.writeBytes c.ckOff (bytesOfWord (recordCksum c m))

/-- `VALIDATE(rec)` (R142). -/
def validate (c : Config) (m : Memory) : Bool := recordCksum c m = prefChecksum c m

/-! ### Upload -/

/-- The chunks of an upload: for each of the `PREF_SIZE / 4` chunks its four bytes and a gap (R144, step 4). -/
def chunkEvents (c : Config) (m : Memory) : List OutEvent :=
  (List.range (c.prefSize / chunkLen)).flatMap fun j =>
    txEvents (m.readBytes (chunkLen * j) chunkLen) ++ [.gap .chunk]

/-- The upload stream of a record (R85; R144, steps 2 to 5). -/
def uploadEvents (c : Config) (m : Memory) : List OutEvent :=
  txEvents (c.tokenBytes .updatePrefs) ++ [.gap .uploadSettle] ++ chunkEvents c m ++
    txEvents (c.tokenBytes .queryPrefs)

/-- The upload stream of `PREF` as it lies (R85). -/
def sendUpload (s : State) : State := s.emit (uploadEvents s.cfg s.pref)

/-- `UPLOAD()`: stamp `PREF`, then send it (R144). -/
def upload (s : State) : State := sendUpload { s with pref := stamp s.cfg s.pref }

/-- `REQ.UPLOAD_PREFS` (R144). -/
def execReqUploadPrefs (s : State) : Host.Outcome State Fault Refusal := .next (upload s)

/-- `UPLOAD_STREAM`: the stream alone, without the stamp that step (1) of the upload makes (R85). -/
def execUploadStream (s : State) : Host.Outcome State Fault Refusal := .next (sendUpload s)

/-! ### Fixed command verbs (R147 to R153) -/

/-- `REQ.QUERY_PREFS` (R147). -/
def execReqQueryPrefs (s : State) : Host.Outcome State Fault Refusal := .next (s.sendToken .queryPrefs)

/-- `REQ.WIPE_PREFS` (R148). -/
def execReqWipePrefs (s : State) : Host.Outcome State Fault Refusal := .next (s.sendToken .wipePrefs)

/-- `REQ.RESET_RADIO` (R149). -/
def execReqResetRadio (s : State) : Host.Outcome State Fault Refusal := .next (s.sendToken .resetRadio)

/-- `REQ.REVERT_GYRO` (R150). -/
def execReqRevertGyro (s : State) : Host.Outcome State Fault Refusal := .next (s.sendToken .revertGyro)

/-- `REQ.REVERT_ACCEL` (R151). -/
def execReqRevertAccel (s : State) : Host.Outcome State Fault Refusal := .next (s.sendToken .revertAccel)

/-- `REQ.ZERO_GYRO` (R152). -/
def execReqZeroGyro (s : State) : Host.Outcome State Fault Refusal := .next (s.sendToken .zeroGyro)

/-- `REQ.ZERO_ACCEL` (R153). -/
def execReqZeroAccel (s : State) : Host.Outcome State Fault Refusal := .next (s.sendToken .zeroAccel)

end Sys2Proof.Machine
end

