-- ==== Sys2Proof/Machine/Framer.lean ====
section
/-! DEFINITION. FRAMER and DISPATCHER (41_framer_dispatch.md). -/

namespace Sys2Proof.Machine

/-- `RX_BYTE(b)` (R120). -/
def execRxByte (b : Byte) (s : State) : Host.Outcome State Fault Refusal :=
  .next { s with rxq := s.rxq ++ [b] }

/-! ### The decoders -/

/-- `DECODE_REC(k, p)`: the record zero-filled and replaced whole, one notification (R126). -/
def decodeRec (k : RecKind) (payload : List Byte) (s : State) : State :=
  (s.setRecord k (Memory.ofBytes (s.recordSize k) payload)).emit [.notify (.telemetry k)]

/-- The staging record of a settings frame (R135). -/
def stage (c : Config) (payload : List Byte) : Memory := Memory.ofBytes c.prefSize payload

/-- `FRAME.SETTINGS(p)`: accept the staging record if it validates, else re-query; then notify (R135). -/
def settingsFrame (payload : List Byte) (s : State) : State :=
  let staged := stage s.cfg payload
  let s' :=
    if validate s.cfg staged then { s with pref := staged, prefValid := true }
    else takeCondition .checksumMismatch s
  s'.emit [.notify .settings]

/-- `FRAME.UNKNOWN(p)`: nothing (R125). -/
def unknownFrame (s : State) : State := takeCondition .unknownMode s

/-- `DISPATCH(p)`: by the mode and nothing else (R124). -/
def dispatch (p : Packet) (s : State) : State :=
  match kindOfMode s.cfg p.mode with
  | some (.telemetry k) => decodeRec k p.payload s
  | some .settings => settingsFrame p.payload s
  | none => unknownFrame s

/-! ### Framing -/

/-- `NEXT_PACKET()`: the packet and the state with its bytes removed, `none` while the head frame is
incomplete (R121). -/
def nextPacket (s : State) : Option (Packet × State) :=
  match nextFrame s.rxq with
  | some (p, rest) => some (p, { s with rxq := rest })
  | none => none

/-- The loop of `DRAIN`, with a bound on the number of packets (R123). -/
def drainUpTo : Nat → State → State
  | 0, s => s
  | n + 1, s =>
    match nextPacket s with
    | some (p, s') => drainUpTo n (dispatch p s')
    | none => s

/-- `DRAIN()`: a packet takes at least three bytes, so the queue's length bounds their number (R123). -/
def drain (s : State) : State := drainUpTo s.rxq.length s

/-! ### The frame operations -/

/-- `FRAME.RADIO` (R127). -/
def execFrameRadio (payload : List Byte) (s : State) : Host.Outcome State Fault Refusal :=
  .next (decodeRec .radio payload s)

/-- `FRAME.SENSORS` (R128). -/
def execFrameSensors (payload : List Byte) (s : State) : Host.Outcome State Fault Refusal :=
  .next (decodeRec .sensors payload s)

/-- `FRAME.QUAT` (R129). -/
def execFrameQuat (payload : List Byte) (s : State) : Host.Outcome State Fault Refusal :=
  .next (decodeRec .quat payload s)

/-- `FRAME.COMPUTED` (R130). -/
def execFrameComputed (payload : List Byte) (s : State) : Host.Outcome State Fault Refusal :=
  .next (decodeRec .computed payload s)

/-- `FRAME.MOTORS` (R131). -/
def execFrameMotors (payload : List Byte) (s : State) : Host.Outcome State Fault Refusal :=
  .next (decodeRec .motors payload s)

/-- `FRAME.TARGET_QUAT` (R132). -/
def execFrameTargetQuat (payload : List Byte) (s : State) : Host.Outcome State Fault Refusal :=
  .next (decodeRec .targetQuat payload s)

/-- `FRAME.DEBUG` (R133). -/
def execFrameDebug (payload : List Byte) (s : State) : Host.Outcome State Fault Refusal :=
  .next (decodeRec .debug payload s)

/-- `FRAME.GPS` (R134). -/
def execFrameGps (payload : List Byte) (s : State) : Host.Outcome State Fault Refusal :=
  .next (decodeRec .gps payload s)

/-- `FRAME.SETTINGS` (R135). -/
def execFrameSettings (payload : List Byte) (s : State) : Host.Outcome State Fault Refusal :=
  .next (settingsFrame payload s)

/-- `FRAME.UNKNOWN` (R125): neither the mode nor the payload is used. -/
def execFrameUnknown (_mode : Byte) (_payload : List Byte) (s : State) :
    Host.Outcome State Fault Refusal :=
  .next (unknownFrame s)

end Sys2Proof.Machine
end

