-- ==== Sys2Proof/Machine/RadioCal.lean ====
section
/-! DEFINITION. RADIOCAL, the radio-channel calibration state machine (43_radio_cal.md). -/

namespace Sys2Proof.Machine

/-! ### The arithmetic of Apply (R174 to R176) -/

/-- `ROUND_DIV(n, d)` for `n > 0`, `d > 0`: to the nearest integer, halves up (R174). -/
def roundDiv (n d : Int) : Int := (2 * n + d) / (2 * d)

/-- `TRUNC_DIV2(x)`: half, towards zero (R176). -/
def truncDiv2 (x : Int) : Int := if 0 ≤ x then x / 2 else -(-x / 2)

/-- `range = max - min`, on integers (R173). -/
def CalSample.range (x : CalSample) : Int := x.max.toInt - x.min.toInt

/-- The new `scale`: the magnitude with the sign of the stored scale, 0 counting as not reversed (R175). -/
def newScale (c : Config) (x : CalSample) (old : Word) : Word :=
  let mag := roundDiv c.scaleNum x.range
  BitVec.ofInt 32 (if old.toInt < 0 then -mag else mag)

/-- The new `center` (R176). -/
def newCenter (x : CalSample) : Half := BitVec.ofInt 16 (truncDiv2 (x.min.toInt + x.max.toInt))

/-! ### The four tick rules -/

/-- `CAL.IDLE`: "no-op" (R167). -/
def calIdleTick (s : State) : State := s

/-- `CAL.RESET`: clear the samples, tell the device, start the countdown (R168). -/
def calResetTick (s : State) : State :=
  { s.sendToken .resetRadio with
    cal := Bank.fill CalSample.cleared
    calStep := .sampling
    calRemaining := BitVec.ofNat 32 s.cfg.samplingTicks }

/-- `CAPTURE`: each channel's value as `start` (R170). -/
def capture (s : State) : State :=
  { s with cal := Bank.ofFn fun c => { s.cal.get c with start := s.channel c } }

/-- One channel of `SAMPLE` (R171). -/
def sampleChannel (threshold : Nat) (x : CalSample) (cur : Half) : CalSample where
  min := if cur.toInt < x.min.toInt then cur else x.min
  max := if x.max.toInt < cur.toInt then cur else x.max
  start := x.start
  moved := movedAfter threshold x cur

/-- `SAMPLE`: every channel (R171). -/
def sample (s : State) : State :=
  { s with cal := Bank.ofFn fun c => sampleChannel s.cfg.moveThreshold (s.cal.get c) (s.channel c) }

/-- `COUNTDOWN`: one less, and on to Apply at zero (R172). -/
def countdown (s : State) : State :=
  { s with
    calRemaining := s.calRemaining - 1#32
    calStep := if s.calRemaining - 1#32 = 0#32 then .apply else s.calStep }

/-- The capture, the sample or neither, by the countdown before its decrement (R169). -/
def sampleWindow (s : State) : State :=
  if s.calRemaining.toNat = s.cfg.captureAt then capture s
  else if s.calRemaining.toNat < s.cfg.captureAt then sample s
  else s

/-- `CAL.SAMPLING` (R169). -/
def calSamplingTick (s : State) : State := countdown (sampleWindow s)

/-- The record after the new scale and center of one channel are written (R173). -/
def writeChannel (c : Config) (x : CalSample) (ch : Fin 8) (m : Memory) : Memory :=
  (m.writeBytes (c.scaleOff.get ch) (bytesOfWord (newScale c x (prefScale c m ch)))).writeBytes
    (c.centerOff.get ch) (bytesOfHalf (newCenter x))

/-- One channel of `CAL.APPLY`: a channel that never moved is left, a moved one of zero range is skipped
(R173, R177). -/
def applyChannel (ch : Fin 8) (s : State) : State :=
  let x := s.cal.get ch
  if x.moved then
    if x.range = 0 then takeCondition (.degenerateRange ch) s
    else { s with pref := writeChannel s.cfg x ch s.pref }
  else s

/-- All eight channels, in increasing order (R173). -/
def applyChannels (s : State) : State := channels.foldl (fun s ch => applyChannel ch s) s

/-- `CAL.APPLY`: write the moved channels, upload, back to Idle (R173, R178). -/
def calApplyTick (s : State) : State := { upload (applyChannels s) with calStep := .idle }

/-- `CAL_TICK()`: exactly one of the four rules, by `cal_step` at the start of the phase (R165). -/
def calTick (s : State) : State :=
  match s.calStep with
  | .idle => calIdleTick s
  | .reset => calResetTick s
  | .sampling => calSamplingTick s
  | .apply => calApplyTick s

/-! ### The phases as operations of their own

A row that a phase of the tick selects by `cal_step` runs its rule where `cal_step` selects it, and does
nothing where `cal_step` selects another row (assumption 4). -/

/-- `CAL.IDLE` (R167). -/
def execCalIdle (s : State) : Host.Outcome State Fault Refusal := .next (calIdleTick s)

/-- `CAL.RESET` (R168). -/
def execCalReset (s : State) : Host.Outcome State Fault Refusal :=
  .next (if s.calStep = .reset then calResetTick s else s)

/-- `CAL.SAMPLING` (R169). -/
def execCalSampling (s : State) : Host.Outcome State Fault Refusal :=
  .next (if s.calStep = .sampling then calSamplingTick s else s)

/-- `CAL.APPLY` (R173). -/
def execCalApply (s : State) : Host.Outcome State Fault Refusal :=
  .next (if s.calStep = .apply then calApplyTick s else s)

/-! ### Requests -/

/-- `REQ.START_RADIO_CAL`: `cal_step <- 1` and nothing else, in every state (R166). -/
def execReqStartRadioCal (s : State) : Host.Outcome State Fault Refusal :=
  .next { s with calStep := .reset }

/-- The escape byte of `LEAVE_VIEW` where a throttle session is in progress (R179). -/
def leaveThrottle (s : State) : State :=
  if s.thrCycle = .c0 then s else { s.sendToken .thrEsc with thrCycle := .c0 }

/-- The tokens of `REVERT_SEQ`, in order (R179). -/
def sendRevert (s : State) : State := s.emit (txEvents (s.cfg.revertSeq.flatMap s.cfg.tokenBytes))

/-- `LEAVE_VIEW()` (R179). -/
def leaveView (s : State) : State :=
  if s.calStep = .idle ∧ s.thrCycle = .c0 then s
  else sendRevert { leaveThrottle s with calStep := .idle, calRemaining := 0#32 }

/-- `REQ.LEAVE_VIEW` (R179). -/
def execReqLeaveView (s : State) : Host.Outcome State Fault Refusal := .next (leaveView s)

end Sys2Proof.Machine
end

