-- ==== Sys2Proof/Machine/TickLoop.lean ====
section
/-! DEFINITION. The tick loop, the heartbeat, and the request codes that do nothing (45_tick_loop.md). -/

namespace Sys2Proof.Machine

/-- `HEARTBEAT()`: one more tick, and the token on every `HEARTBEAT_PERIOD`-th (R201). -/
def beat (s : State) : State :=
  if (s.hbCount + 1#16).toNat = s.cfg.heartbeatPeriod then
    { s.sendToken .heartbeat with hbCount := 0#16 }
  else { s with hbCount := s.hbCount + 1#16 }

/-- `TICK()`: drain, calibration phase, heartbeat, as one atomic step (R200). -/
def tickAll (s : State) : State := beat (calTick (drain s))

/-- `TICK` (R200). -/
def execTick (s : State) : Host.Outcome State Fault Refusal := .next (tickAll s)

/-- `HEARTBEAT`, the third phase of a tick as an operation of its own (R201). -/
def execHeartbeat (s : State) : Host.Outcome State Fault Refusal := .next (beat s)

/-- `REQ.NOP` (R203). -/
def execReqNop (s : State) : Host.Outcome State Fault Refusal := .next s

/-- `REQ.MOTOR_TEST`: reserved, no effect on state or outputs (R209). -/
def execReqMotorTest (s : State) : Host.Outcome State Fault Refusal :=
  .next (takeCondition .reservedRequest s)

/-- `REQ.RESERVED_E`: reserved, no effect on state or outputs (R209). -/
def execReqReservedE (s : State) : Host.Outcome State Fault Refusal :=
  .next (takeCondition .reservedRequest s)

/-- `REQ.RESERVED_F`: reserved, no effect on state or outputs (R209). -/
def execReqReservedF (s : State) : Host.Outcome State Fault Refusal :=
  .next (takeCondition .reservedRequest s)

end Sys2Proof.Machine
end

