-- ==== Sys2Proof/Machine/Tokens.lean ====
section
/-! DEFINITION. The outbound tokens (30_encoding.md R83, R84), each as the operation that sends it. -/

namespace Sys2Proof.Machine

/-- `TOKEN.HEARTBEAT` (R201). -/
def execTokenHeartbeat (s : State) : Host.Outcome State Fault Refusal := .next (s.sendToken .heartbeat)

/-- `TOKEN.QUERY_PREFS` (R147). -/
def execTokenQueryPrefs (s : State) : Host.Outcome State Fault Refusal := .next (s.sendToken .queryPrefs)

/-- `TOKEN.UPDATE_PREFS` (R144). -/
def execTokenUpdatePrefs (s : State) : Host.Outcome State Fault Refusal := .next (s.sendToken .updatePrefs)

/-- `TOKEN.WIPE_PREFS` (R148). -/
def execTokenWipePrefs (s : State) : Host.Outcome State Fault Refusal := .next (s.sendToken .wipePrefs)

/-- `TOKEN.RESET_RADIO` (R149). -/
def execTokenResetRadio (s : State) : Host.Outcome State Fault Refusal := .next (s.sendToken .resetRadio)

/-- `TOKEN.REVERT_GYRO` (R150). -/
def execTokenRevertGyro (s : State) : Host.Outcome State Fault Refusal := .next (s.sendToken .revertGyro)

/-- `TOKEN.REVERT_ACCEL` (R151). -/
def execTokenRevertAccel (s : State) : Host.Outcome State Fault Refusal := .next (s.sendToken .revertAccel)

/-- `TOKEN.ZERO_GYRO` (R152). -/
def execTokenZeroGyro (s : State) : Host.Outcome State Fault Refusal := .next (s.sendToken .zeroGyro)

/-- `TOKEN.ZERO_ACCEL` (R153). -/
def execTokenZeroAccel (s : State) : Host.Outcome State Fault Refusal := .next (s.sendToken .zeroAccel)

/-- `TOKEN.THROTTLE_CAL` (R187). -/
def execTokenThrottleCal (s : State) : Host.Outcome State Fault Refusal := .next (s.sendToken .throttleCal)

/-- `TOKEN.THR_MAX` (R188). -/
def execTokenThrMax (s : State) : Host.Outcome State Fault Refusal := .next (s.sendToken .thrMax)

/-- `TOKEN.THR_ESC` (R191). -/
def execTokenThrEsc (s : State) : Host.Outcome State Fault Refusal := .next (s.sendToken .thrEsc)

end Sys2Proof.Machine
end

