-- ==== Sys2Proof/Machine/Dispatch.lean ====
section
/-! DEFINITION. The meaning of every operation, one arm per constructor. -/

namespace Sys2Proof.Machine

/-- What an operation does to the state. -/
def exec (i : Instr) (s : State) : Host.Outcome State Fault Refusal :=
  match i with
  | .atan2 x y => Sys2Proof.Machine.execAtan2 x y s
  | .rxByte b => Sys2Proof.Machine.execRxByte b s
  | .tick => Sys2Proof.Machine.execTick s
  | .hostMemRead space addr => Sys2Proof.Machine.execHostMemRead space addr s
  | .hostMemWrite space addr data => Sys2Proof.Machine.execHostMemWrite space addr data s
  | .frameRadio payload => Sys2Proof.Machine.execFrameRadio payload s
  | .frameSensors payload => Sys2Proof.Machine.execFrameSensors payload s
  | .frameQuat payload => Sys2Proof.Machine.execFrameQuat payload s
  | .frameComputed payload => Sys2Proof.Machine.execFrameComputed payload s
  | .frameMotors payload => Sys2Proof.Machine.execFrameMotors payload s
  | .frameTargetQuat payload => Sys2Proof.Machine.execFrameTargetQuat payload s
  | .frameDebug payload => Sys2Proof.Machine.execFrameDebug payload s
  | .frameGps payload => Sys2Proof.Machine.execFrameGps payload s
  | .frameSettings payload => Sys2Proof.Machine.execFrameSettings payload s
  | .frameUnknown mode payload => Sys2Proof.Machine.execFrameUnknown mode payload s
  | .reqNop => Sys2Proof.Machine.execReqNop s
  | .reqStartRadioCal => Sys2Proof.Machine.execReqStartRadioCal s
  | .reqLeaveView => Sys2Proof.Machine.execReqLeaveView s
  | .reqThrAdvance ack => Sys2Proof.Machine.execReqThrAdvance ack s
  | .reqThrCancel => Sys2Proof.Machine.execReqThrCancel s
  | .reqUploadPrefs => Sys2Proof.Machine.execReqUploadPrefs s
  | .reqQueryPrefs => Sys2Proof.Machine.execReqQueryPrefs s
  | .reqWipePrefs => Sys2Proof.Machine.execReqWipePrefs s
  | .reqResetRadio => Sys2Proof.Machine.execReqResetRadio s
  | .reqRevertGyro => Sys2Proof.Machine.execReqRevertGyro s
  | .reqRevertAccel => Sys2Proof.Machine.execReqRevertAccel s
  | .reqZeroGyro => Sys2Proof.Machine.execReqZeroGyro s
  | .reqZeroAccel => Sys2Proof.Machine.execReqZeroAccel s
  | .reqMotorTest => Sys2Proof.Machine.execReqMotorTest s
  | .reqReservedE => Sys2Proof.Machine.execReqReservedE s
  | .reqReservedF => Sys2Proof.Machine.execReqReservedF s
  | .thr0to1 ack => Sys2Proof.Machine.execThr0to1 ack s
  | .thr1to2 => Sys2Proof.Machine.execThr1to2 s
  | .thr2to3 => Sys2Proof.Machine.execThr2to3 s
  | .thr3to0 => Sys2Proof.Machine.execThr3to0 s
  | .calIdle => Sys2Proof.Machine.execCalIdle s
  | .calReset => Sys2Proof.Machine.execCalReset s
  | .calSampling => Sys2Proof.Machine.execCalSampling s
  | .calApply => Sys2Proof.Machine.execCalApply s
  | .heartbeat => Sys2Proof.Machine.execHeartbeat s
  | .tokenHeartbeat => Sys2Proof.Machine.execTokenHeartbeat s
  | .tokenQueryPrefs => Sys2Proof.Machine.execTokenQueryPrefs s
  | .tokenUpdatePrefs => Sys2Proof.Machine.execTokenUpdatePrefs s
  | .tokenWipePrefs => Sys2Proof.Machine.execTokenWipePrefs s
  | .tokenResetRadio => Sys2Proof.Machine.execTokenResetRadio s
  | .tokenRevertGyro => Sys2Proof.Machine.execTokenRevertGyro s
  | .tokenRevertAccel => Sys2Proof.Machine.execTokenRevertAccel s
  | .tokenZeroGyro => Sys2Proof.Machine.execTokenZeroGyro s
  | .tokenZeroAccel => Sys2Proof.Machine.execTokenZeroAccel s
  | .tokenThrottleCal => Sys2Proof.Machine.execTokenThrottleCal s
  | .tokenThrMax => Sys2Proof.Machine.execTokenThrMax s
  | .tokenThrEsc => Sys2Proof.Machine.execTokenThrEsc s
  | .uploadStream => Sys2Proof.Machine.execUploadStream s

end Sys2Proof.Machine
end

