-- ==== Sys2Proof/Machine/Step.lean ====
section
/-! DEFINITION. One step of the block: the next event of the environment's script, whole (45_tick_loop.md
R204). -/

namespace Sys2Proof.Machine

/-- One step: take the next event of the script and carry it out; with no event the block is idle and
holds its state (60_exceptions.md R232). -/
def step (s : State) : Host.Outcome State Fault Refusal :=
  match fetchEvent s with
  | none => .next s
  | some (.reset, s') => .next (applyReset s')
  | some (.strobe w, s') =>
    match decode s'.cfg w with
    | .ok i => exec i s'
    | .error e => .refused (.undecodable e)

/-- `s` with the operation of a table word as the next event of its script. -/
def State.withFetchWord (s : State) (nbits w : Nat) : State :=
  { s with pending := .strobe (tableWord nbits w) :: s.pending }

end Sys2Proof.Machine
end

