-- ==== Sys2Proof/Safety.lean ====
section
/-! DEFINITION. What holds of the block in every state a run can reach, and what a script may hold: the
terms that claims about whole runs use. -/

namespace Sys2Proof.Machine

/-- `PREF` and every `REC[k]` are canonical and list only offsets inside the space (20_memory.md R50). -/
abbrev State.SpacesOk (s : State) : Prop :=
  s.pref.wf ∧ s.pref.below s.cfg.prefSize ∧
    ∀ i ∈ channels, (s.recs.get i).wf ∧ (s.recs.get i).below (s.cfg.recSize.get i)

/-- The countdown stays within its budget, is at least 1 on entry to every Sampling tick, and is 0 when the
Apply tick comes (10_state.md R24; 43_radio_cal.md R172, R173, R181). -/
abbrev State.CountdownOk (s : State) : Prop :=
  s.calRemaining.toNat ≤ s.cfg.samplingTicks ∧
    (s.calStep = .sampling → 1 ≤ s.calRemaining.toNat) ∧
    (s.calStep = .apply → s.calRemaining.toNat = 0)

/-- A moved channel has been sampled since the last Reset tick, so its minimum is at most its maximum
(43_radio_cal.md R181). -/
abbrev State.SamplesOk (s : State) : Prop :=
  ∀ c ∈ channels, (s.cal.get c).moved = true → (s.cal.get c).min.toInt ≤ (s.cal.get c).max.toInt

/-- The invariant of the block: a valid configuration, canonical spaces, a countdown and samples in their
bounds, a heartbeat counter below its period (10_state.md R32), and the `MSG` port at rest (R35). -/
abbrev State.Inv (s : State) : Prop :=
  s.cfg.Valid ∧ s.SpacesOk ∧ s.CountdownOk ∧ s.SamplesOk ∧
    s.hbCount.toNat < s.cfg.heartbeatPeriod ∧ s.msgPort = .none

/-- An event the environment can cause: one of the step kinds of 45_tick_loop.md R204, or reset. -/
def Event.external : Event → Bool
  | .strobe w => w.external
  | .reset => true

/-- A script the environment can write (30_encoding.md R92, R93). -/
abbrev State.ScriptOk (s : State) : Prop := ∀ e ∈ s.pending, e.external = true

/-- The byte an event sends to the device, if it sends one (10_state.md R36). -/
def sentByte : OutEvent → Option Byte
  | .tx b => some b
  | .gap _ | .notify _ | .msg _ => none

/-- The bytes a trace sends to the device, in order. -/
def sentBytes (es : List OutEvent) : List Byte := es.filterMap sentByte

/-- The Apply tick updates this channel: it moved and its range is not zero (43_radio_cal.md R173). -/
abbrev CalSample.updates (x : CalSample) : Prop := x.moved = true ∧ x.max.toInt ≠ x.min.toInt

/-- `y` is the sample `x` after one sampling tick that read `cur` (43_radio_cal.md R171). -/
abbrev SampledInto (threshold : Nat) (x : CalSample) (cur : Half) (y : CalSample) : Prop :=
  y.start = x.start ∧
    (y.moved = true ↔ x.moved = true ∨ threshold < (cur.toInt - x.start.toInt).natAbs) ∧
    y.min.toInt = min x.min.toInt cur.toInt ∧ y.max.toInt = max x.max.toInt cur.toInt

/-- Where `cal_step` goes in one operation, from `s`: the table of 45_tick_loop.md R205. The table has no row for a
`CAL` row run where it is not selected, which leaves it (assumption 4), and none for a Sampling tick at countdown 0,
which stays in Sampling (assumption 22). -/
def calTarget (i : Instr) (s : State) : CalStep :=
  let ticked : CalStep :=
    match s.calStep with
    | .idle => .idle
    | .reset => .sampling
    | .sampling => if s.calRemaining = 1#32 then .apply else .sampling
    | .apply => .idle
  match i with
  | .tick => ticked
  | .calReset => if s.calStep = .reset then ticked else s.calStep
  | .calSampling => if s.calStep = .sampling then ticked else s.calStep
  | .calApply => if s.calStep = .apply then ticked else s.calStep
  | .reqStartRadioCal => .reset
  | .reqLeaveView => .idle
  | _ => s.calStep

/-- Where `thr_cycle` goes on `THR_ADVANCE`, from `s`: the table of 45_tick_loop.md R205. -/
def thrAdvanceTarget (ack : Bool) (s : State) : ThrCycle :=
  match s.thrCycle with
  | .c0 => if ack then .c1 else .c0
  | .c1 => if s.batt = 0#16 then .c2 else .c0
  | .c2 => .c3
  | .c3 => .c0

/-- Where `thr_cycle` goes in one operation, from `s`: the table of 45_tick_loop.md R205. The table has no row for a
`THR` row run where it is not selected, which leaves it (assumption 4). -/
def thrTarget (i : Instr) (s : State) : ThrCycle :=
  match i with
  | .reqThrAdvance ack => thrAdvanceTarget ack s
  | .thr0to1 ack => if s.thrCycle = .c0 then thrAdvanceTarget ack s else s.thrCycle
  | .thr1to2 => if s.thrCycle = .c1 then thrAdvanceTarget false s else s.thrCycle
  | .thr2to3 => if s.thrCycle = .c2 then thrAdvanceTarget false s else s.thrCycle
  | .thr3to0 => if s.thrCycle = .c3 then thrAdvanceTarget false s else s.thrCycle
  | .reqThrCancel | .reqLeaveView => .c0
  | _ => s.thrCycle

end Sys2Proof.Machine
end

