-- ==== Sys2Proof/Certificates/Slice0/Obligations.lean ====
section
/-! DEFINITION. The statements about the block that the provers are asked to settle. -/

open Sys2Proof Sys2Proof.Machine

/-! ### Reset and the step -/

/-- 10_state.md R40, for every configuration: the value of every state element and status port after reset. -/
def Obligations.ResetGivesEveryElementItsValue : Prop :=
  State.reset = State.resetWith Config.ref ∧
  ∀ c : Config,
    let s := State.resetWith c
    s.rxq = [] ∧ (∀ k a, (s.record k).read a = 0#8) ∧ (∀ ch, s.channel ch = 0#16) ∧ s.batt = 0#16 ∧
    (∀ a, s.pref.read a = 0#8) ∧ s.prefValid = false ∧ s.calStep = .idle ∧ s.calRemaining = 0#32 ∧
    (∀ ch, (s.cal.get ch).min.toInt = 32767 ∧ (s.cal.get ch).max.toInt = -32768 ∧
      (s.cal.get ch).start = 0#16 ∧ (s.cal.get ch).moved = false) ∧
    s.thrCycle = .c0 ∧ s.hbCount = 0#16 ∧ s.out = [] ∧ s.msgPort = .none ∧ s.statusPort = 0x00#8

/-- The coded output ports. 10_state.md R34: `STATUS` shows `cal_step` in bits 1:0, `thr_cycle` in bits 3:2,
`pref_valid` in bit 4 and zeros above, and `CAL_REMAINING` shows the countdown. R35: `MSG` carries the code of
the last `Msg` event, `NONE` before the first, and `NOTIFY_KIND` the code of the kind; the codes are those of
30_encoding.md R76 and R86. -/
def Obligations.StatusPortShowsTheSequencers : Prop :=
  ∀ s : State,
    (bitField s.statusPort 0 2).toNat =
      (match s.calStep with | .idle => 0 | .reset => 1 | .sampling => 2 | .apply => 3) ∧
    (bitField s.statusPort 2 2).toNat = (match s.thrCycle with | .c0 => 0 | .c1 => 1 | .c2 => 2 | .c3 => 3) ∧
    (bitField s.statusPort 4 1 = 1#1 ↔ s.prefValid = true) ∧ bitField s.statusPort 5 3 = 0#3 ∧
    s.calRemainingPort = s.calRemaining ∧
    (s.out = [] → s.msgPort = .none) ∧
    (∀ e : OutEvent, State.msgPort { s with out := s.out ++ [e] } =
      match e with | .msg m => m | .tx _ | .gap _ | .notify _ => s.msgPort) ∧
    Msg.code .none = 0#2 ∧ Msg.code .warnProps = 1#2 ∧ Msg.code .warnBattery = 2#2 ∧
    Msg.code .thrFinal = 3#2 ∧
    Kind.code (.telemetry .radio) = 1#4 ∧ Kind.code (.telemetry .sensors) = 2#4 ∧
    Kind.code (.telemetry .quat) = 3#4 ∧ Kind.code (.telemetry .computed) = 4#4 ∧
    Kind.code (.telemetry .motors) = 5#4 ∧ Kind.code (.telemetry .targetQuat) = 6#4 ∧
    Kind.code (.telemetry .debug) = 7#4 ∧ Kind.code (.telemetry .gps) = 8#4 ∧ Kind.code .settings = 9#4

/-- The reset event of a script (R240): every state element takes its reset value, the configuration stays
(R241). The rest is the model's choice: that the script and the free-value counter go on and that the model's
condition trace is emptied (assumption 19), and that the ports `ATAN_ANGLE` and `MEM_RDATA` go to 0 (assumption 6,
unsafe). -/
def Obligations.ResetEventRestoresReset : Prop :=
  ∀ (s : State) (rest : List Event), s.pending = .reset :: rest →
    step s = .next { State.resetWith s.cfg with pending := rest, freeCount := s.freeCount }

/-- A step takes the next event off the script and runs exactly the operation it decodes to; without an
event the block holds its state (R232); a table word put first is what runs next. The script is the
model's own field (assumption 2). -/
def Obligations.StepRunsTheDecodedOperation : Prop :=
  (∀ (s : State) (w : OpWord) (rest : List Event) (i : Instr),
    s.pending = .strobe w :: rest → decode s.cfg w = .ok i → step s = exec i { s with pending := rest }) ∧
  (∀ s : State, s.pending = [] → step s = .next s) ∧
  ∀ (s : State) (nbits w : Nat) (i : Instr),
    decode s.cfg (tableWord nbits w) = .ok i → step (s.withFetchWord nbits w) = exec i s

/-- Every operation, in every state, has a next state (00_scope.md R17). -/
def Obligations.EveryOperationCompletes : Prop :=
  ∀ (i : Instr) (s : State), ∃ t, exec i s = .next t

/-- Whatever the environment writes into its script, the step goes on: it never faults and is never
refused (R17, R89, R204). -/
def Obligations.EnvironmentNeverStopsTheBlock : Prop :=
  ∀ s : State, s.ScriptOk → ∃ t, step s = .next t

/-! ### Encoding -/

/-- Decoding the encoding of a well-formed operation gives it back, for every configuration with distinct
mode tags and tokens: no bit of any operand is dropped. The words of the ports are those of 10_state.md R33
and of the opcode table's `PORT` rows. That the `THR`, `CAL` and `HEARTBEAT` rows have words of their own is the
model's choice (assumption 3), and so is that the `TOKEN` and `UPLOAD_STREAM` rows, which are emitted and not
decoded (30_encoding.md R70), are decoded as the inverse of their encoding (assumption 18). -/
def Obligations.DecodeOfEncodeIsTheOperation : Prop :=
  ∀ (c : Config) (i : Instr), c.modes.toList.Nodup → c.TokensDistinct → i.wf c = true →
    decode c (encode c i) = .ok i

/-- Every word the environment can present decodes: there is no illegal encoding (30_encoding.md R89). -/
def Obligations.EveryExternalWordDecodes : Prop :=
  ∀ (c : Config) (w : OpWord), w.external = true → ∃ i, decode c w = .ok i

/-- `REQ[7:5]` is ignored, and `ACK` is seen by `THR_ADVANCE` only (30_encoding.md R80). -/
def Obligations.RequestReadsOnlyItsFields : Prop :=
  ∀ (c : Config) (v w : Byte),
    (bitField v 0 5 = bitField w 0 5 → decode c (.req v) = decode c (.req w)) ∧
    (bitField v 0 4 = bitField w 0 4 → bitField v 0 4 ≠ 3#4 → decode c (.req v) = decode c (.req w))

/-- A few words written out by hand, in the reference configuration: requests, frames and a query from
30_encoding.md sections 2, 4 and 5; the memory write from the fields of 10_state.md R33, packed as the opcode
table's row `HOST_MEM.WRITE` packs them; the token from R12, which the spec has emitted and not decoded, so that
decoding it is the model's choice (assumption 18). -/
def Obligations.WrittenWordsDecode : Prop :=
  decode Config.ref (.req 0x13#8) = .ok (.reqThrAdvance true) ∧
  decode Config.ref (.req 0xE3#8) = .ok (.reqThrAdvance false) ∧
  decode Config.ref (.frame [0x05#8, 0x01#8, 0x00#8, 0x7F#8]) = .ok (.frameMotors [0x7F#8]) ∧
  decode Config.ref (.frame [0x7F#8, 0x02#8, 0x00#8, 0xAA#8, 0xBB#8]) =
    .ok (.frameUnknown 0x7F#8 [0xAA#8, 0xBB#8]) ∧
  decode Config.ref (.atan 0x00000003FFFFFFFC#64) = .ok (.atan2 3#32 0xFFFFFFFC#32) ∧
  decode Config.ref (.mem 0b1_0000_0000000001000000_00010010#29) = .ok (.hostMemWrite 0#4 64#16 0x12#8) ∧
  decode Config.ref (.token [0x54#8, 0x43#8, 0x41#8, 0x4C#8]) = .ok .tokenThrottleCal

/-- 30_encoding.md R74 in the reference configuration: the unknown modes are `0x00` and `0x0A` to `0xFF`. -/
def Obligations.ReferenceUnknownModes : Prop :=
  ∀ m : Byte, kindOfMode Config.ref m = none ↔ m = 0x00#8 ∨ 0x0A ≤ m.toNat

/-! ### FRAMER and DISPATCHER -/

/-- 41_framer_dispatch.md R120: the byte is appended and nothing else changes. -/
def Obligations.RxByteAppendsAtTheTail : Prop :=
  ∀ (b : Byte) (s : State), exec (.rxByte b) s = .next { s with rxq := s.rxq ++ [b] }

/-- A stream yields a frame exactly when it is mode, little-endian length, that many payload bytes, and the
rest; `NEXT_PACKET` takes that frame's bytes off `RXQ` and changes nothing else (30_encoding.md R71, R72;
41_framer_dispatch.md R121). -/
def Obligations.FrameIsHeaderThenPayload : Prop :=
  (∀ (q rest : List Byte) (p : Packet),
    nextFrame q = some (p, rest) ↔
      p.payload.length ≤ 65535 ∧
      q = p.mode :: BitVec.ofNat 8 (p.payload.length % 256) :: BitVec.ofNat 8 (p.payload.length / 256) ::
        (p.payload ++ rest)) ∧
  ∀ (s s' : State) (p : Packet),
    nextPacket s = some (p, s') ↔ ∃ rest, nextFrame s.rxq = some (p, rest) ∧ s' = { s with rxq := rest }

/-- 41_framer_dispatch.md R123 and R124: the drain is the loop of its rule, whatever the model's bound on the
number of packets; what it does with a packet is the frame operation that the packet's mode alone selects. The
rule's order of comparisons does not matter where the nine tags differ (00_scope.md R10). -/
def Obligations.DrainIsTheLoopOfItsRule : Prop :=
  (∀ s : State, drain s =
    match nextPacket s with
    | none => s
    | some (p, s') => drain (dispatch p s')) ∧
  (∀ (s s' : State) (p : Packet), nextPacket s = some (p, s') →
    exec (frameInstr s.cfg p) s' = .next (dispatch p s')) ∧
  ∀ (p : Packet) (s : State), s.cfg.modes.toList.Nodup →
    (p.mode = s.cfg.modes.radio → exec (.frameRadio p.payload) s = .next (dispatch p s)) ∧
    (p.mode = s.cfg.modes.sensors → exec (.frameSensors p.payload) s = .next (dispatch p s)) ∧
    (p.mode = s.cfg.modes.quat → exec (.frameQuat p.payload) s = .next (dispatch p s)) ∧
    (p.mode = s.cfg.modes.computed → exec (.frameComputed p.payload) s = .next (dispatch p s)) ∧
    (p.mode = s.cfg.modes.motors → exec (.frameMotors p.payload) s = .next (dispatch p s)) ∧
    (p.mode = s.cfg.modes.targetQuat → exec (.frameTargetQuat p.payload) s = .next (dispatch p s)) ∧
    (p.mode = s.cfg.modes.debug → exec (.frameDebug p.payload) s = .next (dispatch p s)) ∧
    (p.mode = s.cfg.modes.gps → exec (.frameGps p.payload) s = .next (dispatch p s)) ∧
    (p.mode = s.cfg.modes.settings → exec (.frameSettings p.payload) s = .next (dispatch p s)) ∧
    (p.mode ∉ s.cfg.modes.toList → exec (.frameUnknown p.mode p.payload) s = .next (dispatch p s))

/-- After a drain no complete frame is left, and what is left is the tail of what was queued (R121, R123). -/
def Obligations.DrainIsExhaustive : Prop :=
  ∀ s : State, nextFrame (drain s).rxq = none ∧ (drain s).rxq <:+ s.rxq

/-- 41_framer_dispatch.md R126 for the eight telemetry frames (`frameRadio`, `frameSensors`, `frameQuat`,
`frameComputed`, `frameMotors`, `frameTargetQuat`, `frameDebug`, `frameGps`): the record of the kind is the
payload cut or zero-filled to the record's size, every other record and everything else is as before, one
notification. -/
def Obligations.TelemetryFrameReplacesItsRecord : Prop :=
  ∀ (k : RecKind) (payload : List Byte) (s : State), ∃ t,
    exec (telemetryInstr k payload) s = .next t ∧
    t = { s with recs := t.recs, out := s.out ++ [.notify (.telemetry k)] } ∧
    (∀ l, l ≠ k → t.record l = s.record l) ∧ (t.record k).wf ∧
    ∀ a, (t.record k).read a = if a < s.recordSize k then payload.getD a 0#8 else 0#8

/-- 41_framer_dispatch.md R135: the staging record is the payload cut or zero-filled to `PREF_SIZE`; it
replaces `PREF` if its checksum matches, else one re-query is sent; one notification either way. What the
model's own condition trace gains is left open here. -/
def Obligations.SettingsFrameIsChecksumGated : Prop :=
  ∀ (payload : List Byte) (s : State), ∃ (staged : Memory) (cs : List Condition), staged.wf ∧
    (∀ a, staged.read a = if a < s.cfg.prefSize then payload.getD a 0#8 else 0#8) ∧
    exec (.frameSettings payload) s = .next
      (if recordCksum s.cfg staged = prefChecksum s.cfg staged then
        { s with pref := staged, prefValid := true, conds := cs, out := s.out ++ [.notify .settings] }
      else
        { s with
          conds := cs
          out := s.out ++ s.cfg.cmds.queryPrefs.map .tx ++ [.notify .settings] })

/-- 41_framer_dispatch.md R125: an unknown frame changes nothing the spec gives the block. What the model's
own condition trace gains is left open here. -/
def Obligations.UnknownFrameIsDropped : Prop :=
  ∀ (m : Byte) (payload : List Byte) (s : State), ∃ cs,
    exec (.frameUnknown m payload) s = .next { s with conds := cs }

/-! ### CHECKSUM and the preferences transfer -/

/-- A stamped record validates, whatever it held (42_checksum_prefs.md section 1, property (a)). -/
def Obligations.StampedRecordValidates : Prop :=
  ∀ (c : Config) (m : Memory), c.PrefOk → m.wf → validate c (stamp c m) = true

/-- The all-zero record stores checksum 0 while its computed checksum is `CK_SEED`, so it does not validate
under a seed other than zero (10_state.md R40; 42_checksum_prefs.md section 1, property (d)). -/
def Obligations.ZeroRecordDoesNotValidate : Prop :=
  ∀ c : Config, prefChecksum c [] = 0#32 ∧ recordCksum c [] = c.ckSeed ∧
    (c.ckSeed ≠ 0#32 → validate c [] = false)

/-- Changing any single byte of a record that validates makes it fail, with certainty
(42_checksum_prefs.md section 1, property (b)). -/
def Obligations.SingleByteChangeIsDetected : Prop :=
  ∀ (c : Config) (m : Memory) (a : Nat) (b : Byte), c.PrefOk → m.wf → validate c m = true →
    a < c.prefSize → b ≠ m.read a → validate c (m.write a b) = false

/-- 42_checksum_prefs.md R144: the checksum field of `PREF` is stamped and nothing else of it changes; then
the update token, the settle gap, every chunk of four bytes with its gap, and the query token are sent;
what is sent validates. -/
def Obligations.UploadStampsThenSends : Prop :=
  ∀ s : State, s.cfg.PrefOk → s.pref.wf → ∃ t,
    exec .reqUploadPrefs s = .next t ∧
    t = { s with
      pref := t.pref
      out := s.out ++ s.cfg.cmds.updatePrefs.map .tx ++ [.gap .uploadSettle] ++
        (List.range (s.cfg.prefSize / 4)).flatMap (fun j =>
          [.tx (t.pref.read (4 * j)), .tx (t.pref.read (4 * j + 1)), .tx (t.pref.read (4 * j + 2)),
           .tx (t.pref.read (4 * j + 3)), .gap .chunk]) ++
        s.cfg.cmds.queryPrefs.map .tx } ∧
    (∀ a, a < s.cfg.prefSize - 4 ∨ s.cfg.prefSize ≤ a → t.pref.read a = s.pref.read a) ∧
    prefChecksum s.cfg t.pref = recordCksum s.cfg s.pref ∧ validate s.cfg t.pref = true

/-- The upload stream is the update token, the settle gap, the bytes of `PREF` in increasing offset order with a
chunk gap after every four, and the query token (30_encoding.md R85; 42_checksum_prefs.md R144, steps 2 to 5); so
the bytes sent are the two tokens around the whole record. That the row's operation sends it without a stamp is
the model's choice (assumption 18). -/
def Obligations.UploadStreamCarriesTheRecord : Prop :=
  ∀ s : State, s.cfg.PrefOk → ∃ es,
    exec .uploadStream s = .next { s with out := s.out ++ es } ∧
    es = s.cfg.cmds.updatePrefs.map .tx ++ [.gap .uploadSettle] ++
      (List.range (s.cfg.prefSize / 4)).flatMap (fun j =>
        [.tx (s.pref.read (4 * j)), .tx (s.pref.read (4 * j + 1)), .tx (s.pref.read (4 * j + 2)),
         .tx (s.pref.read (4 * j + 3)), .gap .chunk]) ++
      s.cfg.cmds.queryPrefs.map .tx ∧
    sentBytes es = s.cfg.cmds.updatePrefs ++ s.pref.readBytes 0 s.cfg.prefSize ++ s.cfg.cmds.queryPrefs ∧
    es.count (.gap .chunk) = s.cfg.prefSize / 4 ∧ es.count (.gap .uploadSettle) = 1

/-- 42_checksum_prefs.md R147 to R153: each verb sends its token and does nothing else. -/
def Obligations.FixedVerbsSendOneToken : Prop :=
  ∀ s : State,
    exec .reqQueryPrefs s = .next { s with out := s.out ++ s.cfg.cmds.queryPrefs.map .tx } ∧
    exec .reqWipePrefs s = .next { s with out := s.out ++ s.cfg.cmds.wipePrefs.map .tx } ∧
    exec .reqResetRadio s = .next { s with out := s.out ++ s.cfg.cmds.resetRadio.map .tx } ∧
    exec .reqRevertGyro s = .next { s with out := s.out ++ s.cfg.cmds.revertGyro.map .tx } ∧
    exec .reqRevertAccel s = .next { s with out := s.out ++ s.cfg.cmds.revertAccel.map .tx } ∧
    exec .reqZeroGyro s = .next { s with out := s.out ++ s.cfg.cmds.zeroGyro.map .tx } ∧
    exec .reqZeroAccel s = .next { s with out := s.out ++ s.cfg.cmds.zeroAccel.map .tx } ∧
    Config.ref.cmds.queryPrefs = [0x51, 0x50, 0x52, 0x46] ∧
    Config.ref.cmds.wipePrefs = [0x57, 0x50, 0x52, 0x46] ∧
    Config.ref.cmds.resetRadio = [0x52, 0x52, 0x41, 0x44] ∧
    Config.ref.cmds.revertGyro = [0x52, 0x47, 0x59, 0x52] ∧
    Config.ref.cmds.revertAccel = [0x52, 0x41, 0x43, 0x43] ∧
    Config.ref.cmds.zeroGyro = [0x5A, 0x47, 0x59, 0x52] ∧
    Config.ref.cmds.zeroAccel = [0x5A, 0x41, 0x43, 0x43]

/-- Each outbound token row (`tokenHeartbeat` to `tokenThrEsc`) sends its bytes, first byte first, and does
nothing else; the two throttle control bytes are `FF` and `00` in every configuration (30_encoding.md
R83, R84). That a token is an operation of its own is the model's choice (assumption 3). -/
def Obligations.TokensSendTheirBytes : Prop :=
  ∀ s : State,
    (∀ t : Token, exec (tokenInstr t) s = .next { s with out := s.out ++ (s.cfg.tokenBytes t).map .tx }) ∧
    s.cfg.tokenBytes .thrMax = [0xFF#8] ∧ s.cfg.tokenBytes .thrEsc = [0x00#8]

/-! ### The host's memory port -/

/-- 20_memory.md R66, with the layout of the `CAL` view (R53) and the codes of R58: the byte inside a space,
`00` everywhere else; only the port `MEM_RDATA` changes. -/
def Obligations.HostReadAnswersTheByte : Prop :=
  ∀ (space : BitVec 4) (addr : Half) (s : State), ∃ b,
    exec (.hostMemRead space addr) s = .next { s with memRdata := b } ∧
    (space = 0#4 → b = if addr.toNat < s.cfg.prefSize then s.pref.read addr.toNat else 0#8) ∧
    (∀ k : RecKind, space.toNat = k.idx.val + 1 →
      b = if addr.toNat < s.recordSize k then (s.record k).read addr.toNat else 0#8) ∧
    (∀ (ch : Fin 8) (j : Nat), space = 9#4 → j < 8 → addr.toNat = 8 * ch.val + j →
      b = [bitField (s.cal.get ch).min 0 8, bitField (s.cal.get ch).min 8 8,
        bitField (s.cal.get ch).max 0 8, bitField (s.cal.get ch).max 8 8,
        bitField (s.cal.get ch).start 0 8, bitField (s.cal.get ch).start 8 8,
        if (s.cal.get ch).moved then 1#8 else 0#8, 0#8].getD j 0#8) ∧
    (space = 9#4 → 64 ≤ addr.toNat → b = 0#8) ∧
    (10 ≤ space.toNat → b = 0#8)

/-- 20_memory.md R67: one byte of `PREF`, and in every other case nothing. -/
def Obligations.HostWriteReachesOnlyPref : Prop :=
  ∀ (space : BitVec 4) (addr : Half) (data : Byte) (s : State),
    (space = 0#4 → addr.toNat < s.cfg.prefSize → s.pref.wf → ∃ t,
      exec (.hostMemWrite space addr data) s = .next t ∧ t = { s with pref := t.pref } ∧
      t.pref.read addr.toNat = data ∧ ∀ a, a ≠ addr.toNat → t.pref.read a = s.pref.read a) ∧
    (space ≠ 0#4 ∨ s.cfg.prefSize ≤ addr.toNat → exec (.hostMemWrite space addr data) s = .next s)

/-! ### RADIOCAL -/

/-- 43_radio_cal.md R166: `cal_step <- 1`, in every state, and nothing else. -/
def Obligations.StartWritesOnlyCalStep : Prop :=
  ∀ s : State, exec .reqStartRadioCal s = .next { s with calStep := .reset }

/-- 43_radio_cal.md R179: nothing without a session; else both sequencers go idle and the revert tokens are
sent, after an escape byte if the throttle session is in progress. -/
def Obligations.LeaveViewCancelsSessions : Prop :=
  ∀ s : State,
    (s.calStep = .idle → s.thrCycle = .c0 → exec .reqLeaveView s = .next s) ∧
    (s.calStep ≠ .idle → s.thrCycle = .c0 → exec .reqLeaveView s = .next
      { s with
        calStep := .idle
        calRemaining := 0#32
        out := s.out ++ (s.cfg.revertSeq.flatMap s.cfg.tokenBytes).map .tx }) ∧
    (s.thrCycle ≠ .c0 → exec .reqLeaveView s = .next
      { s with
        calStep := .idle
        calRemaining := 0#32
        thrCycle := .c0
        out := s.out ++ .tx 0x00#8 :: (s.cfg.revertSeq.flatMap s.cfg.tokenBytes).map .tx })

/-- 43_radio_cal.md R167. -/
def Obligations.IdleTickDoesNothing : Prop :=
  ∀ s : State, s.calStep = .idle → exec .calIdle s = .next s ∧ calTick s = s

/-- 43_radio_cal.md R168. -/
def Obligations.ResetTickClearsTheSamples : Prop :=
  ∀ s : State, s.calStep = .reset → s.cfg.CalOk → ∃ t,
    exec .calReset s = .next t ∧ calTick s = t ∧
    t = { s with
      cal := t.cal
      calStep := .sampling
      calRemaining := t.calRemaining
      out := s.out ++ s.cfg.cmds.resetRadio.map .tx } ∧
    t.calRemaining.toNat = s.cfg.samplingTicks ∧
    ∀ ch, (t.cal.get ch).min.toInt = 32767 ∧ (t.cal.get ch).max.toInt = -32768 ∧
      (t.cal.get ch).start = 0#16 ∧ (t.cal.get ch).moved = false

/-- 43_radio_cal.md R169 to R172: above `CAPTURE_AT` nothing is read, at it every channel's `start` is
captured, below it every channel is sampled; then the countdown, to Apply at zero. -/
def Obligations.SamplingTickFollowsTheCountdown : Prop :=
  ∀ s : State, s.calStep = .sampling → 1 ≤ s.calRemaining.toNat → ∃ t,
    exec .calSampling s = .next t ∧ calTick s = t ∧
    t = { s with cal := t.cal, calStep := t.calStep, calRemaining := t.calRemaining } ∧
    t.calRemaining.toNat + 1 = s.calRemaining.toNat ∧
    t.calStep = (if s.calRemaining.toNat = 1 then .apply else .sampling) ∧
    (s.cfg.captureAt < s.calRemaining.toNat → t.cal = s.cal) ∧
    (s.calRemaining.toNat = s.cfg.captureAt →
      ∀ ch, t.cal.get ch = { s.cal.get ch with start := s.channel ch }) ∧
    (s.calRemaining.toNat < s.cfg.captureAt →
      ∀ ch, SampledInto s.cfg.moveThreshold (s.cal.get ch) (s.channel ch) (t.cal.get ch))

/-- 43_radio_cal.md R173, R177, R178: each moved channel of nonzero range gets its new scale and center, no
other byte of `PREF` changes but the checksum field, and the stamped record is uploaded once. What the
model's own condition trace gains is left open here. -/
def Obligations.ApplyTickWritesMovedChannels : Prop :=
  ∀ s : State, s.calStep = .apply → s.cfg.PrefOk → s.pref.wf → ∃ t,
    exec .calApply s = .next t ∧ calTick s = t ∧
    t = { s with
      pref := t.pref
      calStep := .idle
      conds := t.conds
      out := s.out ++ uploadEvents s.cfg t.pref } ∧
    (∀ ch, (s.cal.get ch).updates →
      let x := s.cal.get ch
      let range := x.max.toInt - x.min.toInt
      let mag := (2 * (s.cfg.scaleNum : Int) + range) / (2 * range)
      t.pref.word (s.cfg.scaleOff.get ch) = BitVec.ofInt 32
        (if (s.pref.word (s.cfg.scaleOff.get ch)).toInt < 0 then -mag else mag) ∧
      t.pref.half (s.cfg.centerOff.get ch) = BitVec.ofInt 16 ((x.min.toInt + x.max.toInt).tdiv 2)) ∧
    (∀ a, a < s.cfg.prefSize - 4 ∨ s.cfg.prefSize ≤ a →
      (∀ ch, (s.cal.get ch).updates →
        (a < s.cfg.scaleOff.get ch ∨ s.cfg.scaleOff.get ch + 4 ≤ a) ∧
        (a < s.cfg.centerOff.get ch ∨ s.cfg.centerOff.get ch + 2 ≤ a)) →
      t.pref.read a = s.pref.read a) ∧
    validate s.cfg t.pref = true

/-- The new scale keeps the sign of the stored one, is never zero, and fits its 32 bits, for `SCALE_NUM` at
its default (43_radio_cal.md sections 4 and 5). -/
def Obligations.NewScaleKeepsTheSign : Prop :=
  ∀ (c : Config) (x : CalSample) (old : Word), c.scaleNum = 2097152 → x.min.toInt < x.max.toInt →
    (old.toInt < 0 → (newScale c x old).toInt = -roundDiv 2097152 x.range) ∧
    (0 ≤ old.toInt → (newScale c x old).toInt = roundDiv 2097152 x.range) ∧
    32 ≤ roundDiv 2097152 x.range ∧ roundDiv 2097152 x.range ≤ 2097152

/-- `ROUND_DIV` is the nearest integer to the quotient, halves up (43_radio_cal.md section 4). -/
def Obligations.RoundDivIsNearestHalfUp : Prop :=
  ∀ n d : Int, 0 < n → 0 < d →
    (2 * roundDiv n d - 1) * d ≤ 2 * n ∧ 2 * n < (2 * roundDiv n d + 1) * d

/-- The new center is half the sum of minimum and maximum, rounded towards zero, and fits its 16 bits
(43_radio_cal.md section 4). -/
def Obligations.NewCenterIsTheTruncatedMean : Prop :=
  ∀ x : CalSample, (newCenter x).toInt = (x.min.toInt + x.max.toInt).tdiv 2

/-! ### THRCAL -/

/-- 44_throttle_cal.md R187: with the acknowledgment the start command and cycle 1; without it the abort with
its warning, staying in cycle 0. What the model's own condition trace gains is left open here. -/
def Obligations.ThrottleStartNeedsAcknowledgment : Prop :=
  ∀ s : State, s.thrCycle = .c0 → ∀ i : Bool → Instr, i = .reqThrAdvance ∨ i = .thr0to1 →
    exec (i true) s = .next
      { s with thrCycle := .c1, out := s.out ++ s.cfg.cmds.throttleCal.map .tx } ∧
    ∃ cs, exec (i false) s = .next
      { s with
        conds := cs
        out := s.out ++ [.tx 0x00#8, .msg .warnProps, .gap .warn, .msg .none] }

/-- 44_throttle_cal.md R188: with the battery reading exactly zero the max-throttle byte and cycle 2; else the
abort with its warning, back to cycle 0. What the model's own condition trace gains is left open here. -/
def Obligations.ThrottleMaxNeedsZeroBattery : Prop :=
  ∀ (ack : Bool) (s : State), s.thrCycle = .c1 → ∀ i : Instr, i = .reqThrAdvance ack ∨ i = .thr1to2 →
    (le16Of ((s.record .radio).read 16) ((s.record .radio).read 17) = 0#16 →
      exec i s = .next { s with thrCycle := .c2, out := s.out ++ [.tx 0xFF#8] }) ∧
    (le16Of ((s.record .radio).read 16) ((s.record .radio).read 17) ≠ 0#16 →
      ∃ cs, exec i s = .next
        { s with
          thrCycle := .c0
          conds := cs
          out := s.out ++ [.tx 0x00#8, .msg .warnBattery, .gap .warn, .msg .none] })

/-- 44_throttle_cal.md R189. -/
def Obligations.ThrottleMinNeedsNothing : Prop :=
  ∀ (ack : Bool) (s : State), s.thrCycle = .c2 → ∀ i : Instr, i = .reqThrAdvance ack ∨ i = .thr2to3 →
    exec i s = .next { s with thrCycle := .c3, out := s.out ++ [.tx 0x00#8] }

/-- 44_throttle_cal.md R190. -/
def Obligations.ThrottleFinishShowsInstructions : Prop :=
  ∀ (ack : Bool) (s : State), s.thrCycle = .c3 → ∀ i : Instr, i = .reqThrAdvance ack ∨ i = .thr3to0 →
    exec i s = .next
      { s with
        thrCycle := .c0
        out := s.out ++ [.tx 0x00#8, .msg .thrFinal, .gap .thrFinal, .msg .none] }

/-- 44_throttle_cal.md R191: from every cycle, cycle 0 included. -/
def Obligations.ThrottleCancelAlwaysEscapes : Prop :=
  ∀ s : State, exec .reqThrCancel s = .next { s with thrCycle := .c0, out := s.out ++ [.tx 0x00#8] }

/-- A row that `cal_step` or `thr_cycle` selects does nothing where it is not selected: the model's choice
(assumption 4). -/
def Obligations.UnselectedRowsDoNothing : Prop :=
  ∀ (ack : Bool) (s : State),
    (s.calStep ≠ .reset → exec .calReset s = .next s) ∧
    (s.calStep ≠ .sampling → exec .calSampling s = .next s) ∧
    (s.calStep ≠ .apply → exec .calApply s = .next s) ∧
    (s.thrCycle ≠ .c0 → exec (.thr0to1 ack) s = .next s) ∧
    (s.thrCycle ≠ .c1 → exec .thr1to2 s = .next s) ∧
    (s.thrCycle ≠ .c2 → exec .thr2to3 s = .next s) ∧
    (s.thrCycle ≠ .c3 → exec .thr3to0 s = .next s)

/-! ### The tick loop -/

/-- 45_tick_loop.md R200: a tick is the drain, then the calibration phase, then the heartbeat. -/
def Obligations.TickRunsItsPhasesInOrder : Prop :=
  ∀ s : State, ∃ t, exec .tick s = .next t ∧ exec .heartbeat (calTick (drain s)) = .next t

/-- A radio frame drained in a tick is the sample the calibration phase of the same tick uses
(45_tick_loop.md section 1): here the capture tick, with one radio frame queued. -/
def Obligations.TickSamplesTheFreshestFrame : Prop :=
  ∀ (s : State) (payload : List Byte), s.calStep = .sampling → 1 ≤ s.calRemaining.toNat →
    s.calRemaining.toNat = s.cfg.captureAt → s.cfg.recSize.c0 = 18 → payload.length = 18 →
    s.rxq = s.cfg.modes.radio :: 0x12#8 :: 0x00#8 :: payload → ∃ t,
      exec .tick s = .next t ∧ t.rxq = [] ∧
      ∀ ch : Fin 8, (t.cal.get ch).start =
        le16Of (payload.getD (2 * ch.val) 0#8) (payload.getD (2 * ch.val + 1) 0#8)

/-- A tick neither reads nor writes `thr_cycle` (44_throttle_cal.md section 1): from any other cycle it does
the same and leaves that cycle. -/
def Obligations.TickIsBlindToTheThrottleCycle : Prop :=
  ∀ (s t : State) (x : ThrCycle), exec .tick s = .next t →
    t.thrCycle = s.thrCycle ∧ exec .tick { s with thrCycle := x } = .next { t with thrCycle := x }

/-- 45_tick_loop.md R201. -/
def Obligations.HeartbeatOnEveryPeriod : Prop :=
  ∀ s : State, s.cfg.HeartbeatOk → s.hbCount.toNat < s.cfg.heartbeatPeriod →
    (s.hbCount.toNat + 1 = s.cfg.heartbeatPeriod → exec .heartbeat s = .next
      { s with hbCount := 0#16, out := s.out ++ s.cfg.cmds.heartbeat.map .tx }) ∧
    (s.hbCount.toNat + 1 < s.cfg.heartbeatPeriod → ∃ n : Half, n.toNat = s.hbCount.toNat + 1 ∧
      exec .heartbeat s = .next { s with hbCount := n })

/-- 45_tick_loop.md R203 (`reqNop`) and R209 (the other three): no state written, no event. What the model's own
condition trace gains on a reserved code is left open here. -/
def Obligations.NopAndReservedCodesDoNothing : Prop :=
  ∀ s : State, exec .reqNop s = .next s ∧
    ∀ i ∈ [Instr.reqMotorTest, Instr.reqReservedE, Instr.reqReservedF], ∃ cs,
      exec i s = .next { s with conds := cs }

/-- The six handled conditions in the model's own trace, with their code numbers (60_exceptions.md section 1).
That there is such a trace is the model's choice (assumption 11). -/
def Obligations.ConditionsAreTraced : Prop :=
  (∀ (payload : List Byte) (s t : State), exec (.frameSettings payload) s = .next t →
    t.conds = if validate s.cfg (stage s.cfg payload) then s.conds else s.conds ++ [.checksumMismatch]) ∧
  (∀ (s t : State), s.thrCycle = .c0 → exec (.reqThrAdvance false) s = .next t →
    t.conds = s.conds ++ [.interlockProps]) ∧
  (∀ (ack : Bool) (s t : State), s.thrCycle = .c1 → s.batt ≠ 0#16 → exec (.reqThrAdvance ack) s = .next t →
    t.conds = s.conds ++ [.interlockBattery]) ∧
  (∀ s t : State, s.calStep = .apply → exec .calApply s = .next t →
    t.conds = s.conds ++ (channels.filter fun ch =>
      (s.cal.get ch).moved && (s.cal.get ch).range == 0).map .degenerateRange) ∧
  (∀ (m : Byte) (payload : List Byte) (s t : State), exec (.frameUnknown m payload) s = .next t →
    t.conds = s.conds ++ [.unknownMode]) ∧
  (∀ (s t : State), ∀ i ∈ [Instr.reqMotorTest, Instr.reqReservedE, Instr.reqReservedF],
    exec i s = .next t → t.conds = s.conds ++ [.reservedRequest]) ∧
  [Condition.checksumMismatch, .interlockProps, .interlockBattery, .degenerateRange 0, .unknownMode,
    .reservedRequest].map Condition.code = [1, 2, 3, 4, 5, 6]

/-! ### ATAN2 -/

/-- 40_atan2.md R101: for `y = 0`, 0 or the half turn, for every `x`, and nothing else changes. -/
def Obligations.AtanOnTheAxis : Prop :=
  ∀ (x : Word) (s : State),
    (0 ≤ x.toInt → exec (.atan2 x 0#32) s = .next { s with atanAngle := 0#16 }) ∧
    (x.toInt < 0 →
      exec (.atan2 x 0#32) s = .next { s with atanAngle := BitVec.ofNat 16 s.cfg.atanHalfTurn }) ∧
    Config.ref.atanHalfTurn = 8192

/-- 40_atan2.md R104, R106, R107: in the domain the reduced vector is prescaled if its `x` is below the limit;
each iteration turns it by the sign of `y`, with shifts that round down (`/` by a positive number is the floor),
and adds or takes off its table entry; the angle is the octant's base plus the shifted correction, cut to 16 bits,
and nothing else changes. `X n`, `Y n` and `D n` are the vector and the correction after `n` iterations; iteration
`n + 1` shifts by `n + 1` and uses the table entry at position `n`. The reduced vector is the one
`Obligations.OctantReductionReachesTheFirstOctant` gives. -/
def Obligations.AtanCombinesOctantAndCorrection : Prop :=
  (∀ (x y : Word) (s : State), y.toInt ≠ 0 → AtanDomain s.cfg x y →
    let v := octantReduce x.toInt y.toInt
    ∃ X Y D : Nat → Int,
      (v.x < s.cfg.atanSmallLimit → X 0 = v.x * s.cfg.atanPrescale ∧ Y 0 = v.y * s.cfg.atanPrescale) ∧
      (s.cfg.atanSmallLimit ≤ v.x → X 0 = v.x ∧ Y 0 = v.y) ∧ D 0 = 0 ∧
      (∀ n t : Nat, s.cfg.atanLut[n]? = some t →
        (0 ≤ Y n → X (n + 1) = X n + Y n / 2 ^ (n + 1) ∧ Y (n + 1) = Y n - X n / 2 ^ (n + 1) ∧
          D (n + 1) = D n + t) ∧
        (Y n < 0 → X (n + 1) = X n - Y n / 2 ^ (n + 1) ∧ Y (n + 1) = Y n + X n / 2 ^ (n + 1) ∧
          D (n + 1) = D n - t)) ∧
      prescale s.cfg v = ⟨X 0, Y 0, v.o⟩ ∧
      (∀ n ≤ s.cfg.atanLut.length, cordicRun 1 (s.cfg.atanLut.take n) ⟨X 0, Y 0, 0⟩ = ⟨X n, Y n, D n⟩) ∧
      exec (.atan2 x y) s = .next { s with
        atanAngle := BitVec.ofInt 16
          (v.o * s.cfg.atanOctant + D s.cfg.atanLut.length / 2 ^ s.cfg.atanOutShift) }) ∧
  Config.ref.atanSmallLimit = 65536 ∧ Config.ref.atanPrescale = 4096 ∧ Config.ref.atanOctant = 2048 ∧
  Config.ref.atanOutShift = 2 ∧ Config.ref.atanLut = [4836, 2555, 1297, 651, 326, 163, 81, 41, 20, 10, 5]

/-- Outside the domain the state the spec gives the block is unchanged and only the angle is open
(40_atan2.md R111, U1). The counter of free values is the model's own (assumption 7). -/
def Obligations.AtanOutsideTheDomainIsOpen : Prop :=
  ∀ (x y : Word) (s : State), y.toInt ≠ 0 → ¬AtanDomain s.cfg x y → ∃ a : Half,
    exec (.atan2 x y) s = .next { s with atanAngle := a, freeCount := s.freeCount + 1 }

/-- 40_atan2.md R102: the three transforms, each on the result of the one before, with the eighth turns each
takes off. R103: after them the vector lies in the first octant and the index is at most 7; in a domain of bound
`b` the reduced `x` is at most `2 b`. -/
def Obligations.OctantReductionReachesTheFirstOctant : Prop :=
  ∀ x y : Int, y ≠ 0 →
    let v := octantReduce x y
    (∃ (x₁ y₁ x₂ y₂ : Int) (o₁ o₂ : Nat),
      (y < 0 → x₁ = -x ∧ y₁ = -y ∧ o₁ = 4) ∧ (0 ≤ y → x₁ = x ∧ y₁ = y ∧ o₁ = 0) ∧
      (x₁ ≤ 0 → x₂ = y₁ ∧ y₂ = -x₁ ∧ o₂ = o₁ + 2) ∧ (0 < x₁ → x₂ = x₁ ∧ y₂ = y₁ ∧ o₂ = o₁) ∧
      (x₂ ≤ y₂ → v.x = x₂ + y₂ ∧ v.y = y₂ - x₂ ∧ v.o = o₂ + 1) ∧
      (y₂ < x₂ → v.x = x₂ ∧ v.y = y₂ ∧ v.o = o₂)) ∧
    0 < v.x ∧ 0 ≤ v.y ∧ v.y < v.x ∧ v.o ≤ 7 ∧
      ∀ b : Int, |x| ≤ b → |y| ≤ b → v.x ≤ 2 * b

/-- The correction and the uncut sum stay in the ranges that the table's total of 9985 allows
(40_atan2.md section 3). -/
def Obligations.AtanSumStaysInRange : Prop :=
  ∀ x y : Int, y ≠ 0 →
    -2497 ≤ asr (atanStages Config.ref x y).2 2 ∧ asr (atanStages Config.ref x y).2 2 ≤ 2496 ∧
    -2497 ≤ atanSum Config.ref x y ∧ atanSum Config.ref x y ≤ 16832

/-- In the domain every intermediate vector of the iterations fits 32 signed bits, so that reading the rules on
integers or with wrap-around is the same (40_atan2.md section 3). -/
def Obligations.AtanNeverLeavesThirtyTwoBits : Prop :=
  ∀ x y : Int, y ≠ 0 → |x| ≤ 262144 → |y| ≤ 262144 →
    let v := prescale Config.ref (octantReduce x y)
    ∀ n ≤ 11,
      let r := cordicRun 1 (Config.ref.atanLut.take n) ⟨v.x, v.y, 0⟩
      |r.x| < 2147483648 ∧ |r.y| < 2147483648

/-! ### The whole machine -/

/-- `OUT` is append-only (10_state.md R36): every operation leaves what was emitted and adds at the end. -/
def Obligations.OutputTraceOnlyGrows : Prop :=
  ∀ (i : Instr) (s t : State), exec i s = .next t → s.out <+: t.out

/-- 45_tick_loop.md R205: the two sequencers go only where the table of transfers says, operation by
operation. The table has no row for two cases, which are the model's choice: a `CAL` or `THR` row run where it is
not selected, which leaves both (assumption 4), and a Sampling tick at countdown 0, in states no run reaches, which
stays in Sampling (assumption 22). That those rows run as operations of their own is assumption 3. -/
def Obligations.SequencersFollowTheTransferTable : Prop :=
  ∀ (i : Instr) (s t : State), exec i s = .next t → t.calStep = calTarget i s ∧ t.thrCycle = thrTarget i s

/-- 45_tick_loop.md R204: what each kind of step may write. The output ports and the counters `freeCount` and
`conds` are the model's own fields (assumptions 6, 7, 11). -/
def Obligations.EachStepKindWritesOnlyItsElements : Prop :=
  (∀ (x y : Word) (s t : State), exec (.atan2 x y) s = .next t →
    t = { s with atanAngle := t.atanAngle, freeCount := t.freeCount }) ∧
  (∀ (b : Byte) (s t : State), exec (.rxByte b) s = .next t → t = { s with rxq := t.rxq }) ∧
  (∀ s t : State, exec .tick s = .next t →
    t = { s with
      rxq := t.rxq
      recs := t.recs
      pref := t.pref
      prefValid := t.prefValid
      calStep := t.calStep
      calRemaining := t.calRemaining
      cal := t.cal
      hbCount := t.hbCount
      out := t.out
      conds := t.conds }) ∧
  (∀ (w : Byte) (s t : State), s.pref.wf → exec (decodeReq w) s = .next t →
    t = { s with
      calStep := t.calStep
      calRemaining := t.calRemaining
      thrCycle := t.thrCycle
      pref := t.pref
      out := t.out
      conds := t.conds } ∧
    ∀ a, a < s.cfg.ckOff ∨ s.cfg.ckOff + 4 ≤ a → t.pref.read a = s.pref.read a) ∧
  (∀ (space : BitVec 4) (addr : Half) (s t : State), exec (.hostMemRead space addr) s = .next t →
    t = { s with memRdata := t.memRdata }) ∧
  (∀ (space : BitVec 4) (addr : Half) (data : Byte) (s t : State), s.pref.wf →
    exec (.hostMemWrite space addr data) s = .next t →
    t = { s with pref := t.pref } ∧ ∀ a, a ≠ addr.toNat → t.pref.read a = s.pref.read a)

/-- The configuration is not writable at run time (20_memory.md section 6), `pref_valid` is never cleared by an
operation (10_state.md section 4). That no operation touches the environment's script is about the model's own
field (assumption 2). -/
def Obligations.ConfigurationAndValidBitArePreserved : Prop :=
  ∀ (i : Instr) (s t : State), exec i s = .next t →
    t.cfg = s.cfg ∧ t.pending = s.pending ∧ (s.prefValid = true → t.prefValid = true)

/-- The invariant holds after reset, in every valid configuration and in the reference one. Three of the
constraints of a valid configuration are the model's (assumptions 15 and 23). -/
def Obligations.ResetMeetsTheInvariant : Prop :=
  (∀ c : Config, c.Valid → (State.resetWith c).Inv) ∧ State.reset.Inv

/-- Every step, from every state that meets the invariant, gives a state that meets it: canonical spaces
inside their sizes, the countdown and the samples in their bounds (43_radio_cal.md R181), the heartbeat
counter below its period (10_state.md R32), the `MSG` port at rest (R35). -/
def Obligations.EveryStepKeepsTheInvariant : Prop :=
  ∀ s t : State, s.Inv → step s = .next t → t.Inv
end

