-- ==== Sys2Proof/Laws/Atan.lean ====
section
/-! SUPPORT. What each stage of the ATAN2 unit does, said once: the prescale, one iteration, and the iterations
over a table that is cut or extended. -/

namespace Sys2Proof.Machine

/-- The two ways the prescale goes (R104); the octant index stays. -/
theorem prescale_cases (c : Config) (v : AtanVec) :
    (v.x < c.atanSmallLimit ∧ prescale c v = ⟨v.x * c.atanPrescale, v.y * c.atanPrescale, v.o⟩) ∨
      (c.atanSmallLimit ≤ v.x ∧ prescale c v = v) := by
  rw [prescale]
  split
  · exact .inl ⟨‹_›, rfl⟩
  · exact .inr ⟨by omega, rfl⟩

/-- The two ways one iteration turns (R106). -/
theorem cordicStep_cases (i t : Nat) (v : Cordic) :
    (0 ≤ v.y ∧ cordicStep i t v = ⟨v.x + asr v.y i, v.y - asr v.x i, v.dphi + t⟩) ∨
      (v.y < 0 ∧ cordicStep i t v = ⟨v.x - asr v.y i, v.y + asr v.x i, v.dphi - t⟩) := by
  rw [cordicStep]
  split
  · exact .inl ⟨‹_›, rfl⟩
  · exact .inr ⟨by omega, rfl⟩

/-- The iterations over a table in two parts (R106). -/
theorem cordicRun_append (i : Nat) (ts us : List Nat) (v : Cordic) :
    cordicRun i (ts ++ us) v = cordicRun (i + ts.length) us (cordicRun i ts v) := by
  induction ts generalizing i v with
  | nil => rfl
  | cons t ts ih =>
    rw [List.cons_append, cordicRun, ih, cordicRun, List.length_cons, Nat.add_assoc, Nat.add_comm 1]

/-- One iteration more (R106). -/
theorem cordicRun_take_succ (i n t : Nat) (ts : List Nat) (v : Cordic) (h : ts[n]? = some t) :
    cordicRun i (ts.take (n + 1)) v = cordicStep (i + n) t (cordicRun i (ts.take n) v) := by
  obtain ⟨hn, rfl⟩ := List.getElem?_eq_some_iff.mp h
  rw [List.take_succ_eq_append_getElem hn, cordicRun_append, List.length_take_of_le (Nat.le_of_lt hn)]
  rfl

end Sys2Proof.Machine
end

