-- ==== Sys2Proof/Laws/Memory.lean ====
section
/-! SUPPORT. The laws of the memory operations (read after write, the canonical form, bounds) and of the
bank. -/

namespace Sys2Proof

/-! ### The bank -/

@[simp] theorem Bank.get_ofFn {α : Type} (f : Fin 8 → α) (i : Fin 8) : (Bank.ofFn f).get i = f i := by
  fin_cases i <;> rfl

@[simp] theorem Bank.get_fill {α : Type} (a : α) (i : Fin 8) : (Bank.fill a).get i = a := by
  simp [Bank.fill]

@[simp] theorem Bank.get_set_same {α : Type} (b : Bank α) (i : Fin 8) (a : α) :
    (b.set i a).get i = a := by
  simp [Bank.set]

theorem Bank.get_set_ne {α : Type} (b : Bank α) {i j : Fin 8} (a : α) (h : j ≠ i) :
    (b.set i a).get j = b.get j := by
  simp [Bank.set, h]

theorem Bank.get_set {α : Type} (b : Bank α) (i j : Fin 8) (a : α) :
    (b.set i a).get j = if j = i then a else b.get j := by
  simp [Bank.set]

theorem Bank.ext_get {α : Type} {a b : Bank α} (h : ∀ i, a.get i = b.get i) : a = b := by
  have h0 := h 0
  have h1 := h 1
  have h2 := h 2
  have h3 := h 3
  have h4 := h 4
  have h5 := h 5
  have h6 := h 6
  have h7 := h 7
  cases a
  cases b
  simp_all [Bank.get]

@[simp] theorem mem_channels (c : Fin 8) : c ∈ channels := by
  fin_cases c <;> decide

@[simp] theorem RecKind.ofIdx_idx (k : RecKind) : RecKind.ofIdx k.idx = k := by
  cases k <;> rfl

@[simp] theorem RecKind.idx_ofIdx (i : Fin 8) : (RecKind.ofIdx i).idx = i := by
  fin_cases i <;> rfl

theorem RecKind.idx_inj {k l : RecKind} (h : k.idx = l.idx) : k = l := by
  rw [← RecKind.ofIdx_idx k, h, RecKind.ofIdx_idx]

namespace Machine

/-! ### One byte -/

@[simp] theorem Memory.read_nil (a : Nat) : Memory.read [] a = 0#8 := rfl

theorem Memory.read_cons (p : Host.Cell) (m : Memory) (a : Nat) :
    Memory.read (p :: m) a = if p.1 = a then p.2 else Memory.read m a := rfl

/-- An offset below every listed one reads as `00`. -/
theorem Memory.read_eq_zero_of_lt {m : Memory} {a : Nat} (h : ∀ p ∈ m, a < p.1) :
    Memory.read m a = 0#8 := by
  induction m with
  | nil => rfl
  | cons p m ih =>
    have hp : p.1 ≠ a := Nat.ne_of_gt (h p (by simp))
    rw [Memory.read_cons, if_neg hp]
    exact ih fun q hq => h q (by simp [hq])

/-- Every listed offset after a write was listed before or is the one written. -/
theorem Memory.mem_write {m : Memory} {a : Nat} {b : Byte} {p : Host.Cell}
    (h : p ∈ Memory.write m a b) : p ∈ m ∨ (p = (a, b) ∧ b ≠ 0#8) := by
  induction m with
  | nil =>
    by_cases hb : b = 0#8
    · simp [Memory.write, hb] at h
    · simp [Memory.write, hb] at h
      exact .inr ⟨h, hb⟩
  | cons q m ih =>
    rcases q with ⟨a', b'⟩
    simp only [Memory.write] at h
    split at h
    · rcases List.mem_cons.mp h with rfl | h
      · exact .inl (by simp)
      · rcases ih h with h | h
        · exact .inl (by simp [h])
        · exact .inr h
    · split at h
      · split at h
        · exact .inl (by simp [h])
        · rename_i hb
          rcases List.mem_cons.mp h with rfl | h
          · exact .inr ⟨rfl, hb⟩
          · exact .inl (by simp [h])
      · split at h
        · exact .inl h
        · rename_i hb
          rcases List.mem_cons.mp h with rfl | h
          · exact .inr ⟨rfl, hb⟩
          · exact .inl h

theorem Memory.wf_nil : Memory.wf [] := by simp [Memory.wf]

theorem Memory.wf_tail {p : Host.Cell} {m : Memory} (h : Memory.wf (p :: m)) : Memory.wf m :=
  ⟨(List.pairwise_cons.mp h.1).2, fun q hq => h.2 q (by simp [hq])⟩

/-- A write keeps the canonical form. -/
theorem Memory.wf_write {m : Memory} (h : m.wf) (a : Nat) (b : Byte) : (Memory.write m a b).wf := by
  refine ⟨?_, fun p hp => ?_⟩
  · induction m with
    | nil => by_cases hb : b = 0#8 <;> simp [Memory.write, hb]
    | cons q m ih =>
      rcases q with ⟨a', b'⟩
      have ht := Memory.wf_tail h
      have hq := (List.pairwise_cons.mp h.1).1
      simp only [Memory.write]
      split
      · rename_i hlt
        refine List.pairwise_cons.mpr ⟨fun p hp => ?_, ih ht⟩
        rcases Memory.mem_write hp with hp | ⟨rfl, -⟩
        · exact hq p hp
        · exact hlt
      · rename_i hge
        split
        · rename_i heq
          split
          · exact ht.1
          · refine List.pairwise_cons.mpr ⟨fun p hp => ?_, ht.1⟩
            have := hq p hp
            simp_all
        · rename_i hne
          split
          · exact h.1
          · refine List.pairwise_cons.mpr ⟨fun p hp => ?_, h.1⟩
            rcases List.mem_cons.mp hp with rfl | hp
            · simp only
              omega
            · have := hq p hp
              simp only at this ⊢
              omega
  · rcases Memory.mem_write hp with hp | ⟨rfl, hb⟩
    · exact h.2 p hp
    · exact hb

/-- A write inside the bound keeps the bound. -/
theorem Memory.below_write {m : Memory} {size : Nat} (h : m.below size) {a : Nat} (ha : a < size)
    (b : Byte) : (Memory.write m a b).below size := by
  intro p hp
  rcases Memory.mem_write hp with hp | ⟨rfl, -⟩
  · exact h p hp
  · exact ha

/-- Reading after a write, in a canonical memory: the byte written, every other byte as before. -/
theorem Memory.read_write {m : Memory} (h : m.wf) (a a₁ : Nat) (b : Byte) :
    Memory.read (Memory.write m a b) a₁ = if a₁ = a then b else Memory.read m a₁ := by
  induction m with
  | nil =>
    by_cases hb : b = 0#8
    · simp [Memory.write, hb]
    · simp [Memory.write, hb, Memory.read_cons, eq_comm]
  | cons q m ih =>
    rcases q with ⟨a', b'⟩
    have ht := Memory.wf_tail h
    have hq := (List.pairwise_cons.mp h.1).1
    simp only [Memory.write]
    split
    · rename_i hlt
      rw [Memory.read_cons, ih ht, Memory.read_cons]
      simp only
      by_cases h1 : a' = a₁
      · subst h1
        simp [Nat.ne_of_lt hlt]
      · simp [h1]
    · rename_i hge
      split
      · rename_i heq
        subst heq
        have hz : Memory.read m a' = 0#8 := Memory.read_eq_zero_of_lt hq
        split
        · rename_i hb
          by_cases h1 : a₁ = a'
          · subst h1
            simp [hz, hb]
          · simp [h1, Memory.read_cons, Ne.symm h1]
        · by_cases h1 : a₁ = a'
          · subst h1
            simp [Memory.read_cons]
          · simp [h1, Memory.read_cons, Ne.symm h1]
      · rename_i hne
        have hz : Memory.read ((a', b') :: m) a = 0#8 := by
          refine Memory.read_eq_zero_of_lt fun p hp => ?_
          rcases List.mem_cons.mp hp with rfl | hp
          · simp only
            omega
          · have := hq p hp
            simp only at this
            omega
        split
        · rename_i hb
          by_cases h1 : a₁ = a
          · subst h1
            simp [hz, hb]
          · simp [h1]
        · by_cases h1 : a₁ = a
          · subst h1
            simp [Memory.read_cons]
          · rw [Memory.read_cons]
            simp [h1, Ne.symm h1]

/-- Two canonical memories that read alike everywhere are the same list. -/
theorem Memory.ext_read {m n : Memory} (hm : m.wf) (hn : n.wf)
    (h : ∀ a, Memory.read m a = Memory.read n a) : m = n := by
  induction m generalizing n with
  | nil =>
    cases n with
    | nil => rfl
    | cons q n =>
      have := h q.1
      simp only [Memory.read_nil, Memory.read_cons, if_true] at this
      exact absurd this.symm (hn.2 q (by simp))
  | cons p m ih =>
    cases n with
    | nil =>
      have := h p.1
      simp only [Memory.read_nil, Memory.read_cons, if_true] at this
      exact absurd this (hm.2 p (by simp))
    | cons q n =>
      have hp := (List.pairwise_cons.mp hm.1).1
      have hq := (List.pairwise_cons.mp hn.1).1
      have key : p.1 = q.1 := by
        rcases Nat.lt_trichotomy p.1 q.1 with hlt | heq | hgt
        · have h1 := h p.1
          rw [Memory.read_cons, if_pos rfl, Memory.read_eq_zero_of_lt] at h1
          · exact absurd h1 (hm.2 p (by simp))
          · intro r hr
            rcases List.mem_cons.mp hr with rfl | hr
            · exact hlt
            · exact Nat.lt_trans hlt (hq r hr)
        · exact heq
        · have h1 := h q.1
          rw [Memory.read_cons (p := q), if_pos rfl, Memory.read_eq_zero_of_lt] at h1
          · exact absurd h1.symm (hn.2 q (by simp))
          · intro r hr
            rcases List.mem_cons.mp hr with rfl | hr
            · exact hgt
            · exact Nat.lt_trans hgt (hp r hr)
      have hval : p.2 = q.2 := by
        have h1 := h p.1
        rw [Memory.read_cons, if_pos rfl, Memory.read_cons, if_pos key.symm] at h1
        exact h1
      have hpq : p = q := Prod.ext key hval
      subst hpq
      congr 1
      refine ih (Memory.wf_tail hm) (Memory.wf_tail hn) fun a => ?_
      by_cases ha : p.1 = a
      · subst ha
        rw [Memory.read_eq_zero_of_lt hp, Memory.read_eq_zero_of_lt hq]
      · have h1 := h a
        rwa [Memory.read_cons, if_neg ha, Memory.read_cons, if_neg ha] at h1

/-! ### Several bytes -/

@[simp] theorem Memory.writeBytes_nil (m : Memory) (a : Nat) : Memory.writeBytes m a [] = m := rfl

theorem Memory.writeBytes_cons (m : Memory) (a : Nat) (b : Byte) (bs : List Byte) :
    Memory.writeBytes m a (b :: bs) = Memory.writeBytes (Memory.write m a b) (a + 1) bs := rfl

/-- Writing several bytes keeps the canonical form. -/
theorem Memory.wf_writeBytes {m : Memory} (h : m.wf) (a : Nat) (bs : List Byte) :
    (Memory.writeBytes m a bs).wf := by
  induction bs generalizing m a with
  | nil => exact h
  | cons b bs ih => exact ih (Memory.wf_write h a b) (a + 1)

/-- Writing several bytes inside the bound keeps the bound. -/
theorem Memory.below_writeBytes {m : Memory} {size : Nat} (h : m.below size) (a : Nat) (bs : List Byte)
    (ha : a + bs.length ≤ size) : (Memory.writeBytes m a bs).below size := by
  induction bs generalizing m a with
  | nil => exact h
  | cons b bs ih =>
    simp only [List.length_cons] at ha
    exact ih (Memory.below_write h (by omega) b) (a + 1) (by omega)

/-- Reading after writing several bytes, in a canonical memory: the bytes written at their offsets, every
other byte as before. -/
theorem Memory.read_writeBytes {m : Memory} (h : m.wf) (a : Nat) (bs : List Byte) (a₁ : Nat) :
    Memory.read (Memory.writeBytes m a bs) a₁ =
      if a ≤ a₁ ∧ a₁ < a + bs.length then bs.getD (a₁ - a) 0#8 else Memory.read m a₁ := by
  induction bs generalizing m a with
  | nil =>
    rw [Memory.writeBytes_nil, if_neg]
    simp only [List.length_nil]
    omega
  | cons b bs ih =>
    rw [Memory.writeBytes_cons, ih (Memory.wf_write h a b), Memory.read_write h]
    simp only [List.length_cons]
    by_cases h1 : a + 1 ≤ a₁ ∧ a₁ < a + 1 + bs.length
    · have h2 : a ≤ a₁ ∧ a₁ < a + (bs.length + 1) := by omega
      have h3 : a₁ - a = a₁ - (a + 1) + 1 := by omega
      rw [if_pos h1, if_pos h2, h3, List.getD_cons_succ]
    · rw [if_neg h1]
      by_cases h2 : a₁ = a
      · subst h2
        simp
      · have h3 : ¬(a ≤ a₁ ∧ a₁ < a + (bs.length + 1)) := by omega
        rw [if_neg h2, if_neg h3]

/-- A whole space built from bytes is canonical. -/
theorem Memory.wf_ofBytes (size : Nat) (bs : List Byte) : (Memory.ofBytes size bs).wf :=
  Memory.wf_writeBytes Memory.wf_nil 0 _

/-- A whole space built from bytes lists only offsets inside it. -/
theorem Memory.below_ofBytes (size : Nat) (bs : List Byte) : (Memory.ofBytes size bs).below size :=
  Memory.below_writeBytes (m := []) (by simp [Memory.below]) 0 _ (by simp)

/-- A whole space built from bytes: as many of them as fit, then zeros. -/
theorem Memory.read_ofBytes (size : Nat) (bs : List Byte) (a : Nat) :
    Memory.read (Memory.ofBytes size bs) a = if a < size then bs.getD a 0#8 else 0#8 := by
  rw [Memory.ofBytes, Memory.read_writeBytes Memory.wf_nil]
  simp only [Nat.zero_le, Nat.zero_add, true_and, Nat.sub_zero, List.length_take, Memory.read_nil,
    List.getD_eq_getElem?_getD, List.getElem?_take]
  by_cases h1 : a < size
  · by_cases h2 : a < bs.length
    · simp [h1, h2]
    · simp [h1, h2]
  · simp [h1]

@[simp] theorem Memory.length_readBytes (m : Memory) (a n : Nat) : (Memory.readBytes m a n).length = n := by
  simp [Memory.readBytes]

/-- The bytes read one by one. -/
theorem Memory.getElem_readBytes (m : Memory) (a n i : Nat) (h : i < (Memory.readBytes m a n).length) :
    (Memory.readBytes m a n)[i] = Memory.read m (a + i) := by
  simp [Memory.readBytes]

/-- Two memories that read alike on a range give the same bytes. -/
theorem Memory.readBytes_congr {m n : Memory} {a k : Nat}
    (h : ∀ i, i < k → Memory.read m (a + i) = Memory.read n (a + i)) :
    Memory.readBytes m a k = Memory.readBytes n a k := by
  simp only [Memory.readBytes]
  exact List.map_congr_left fun i hi => h i (List.mem_range.mp hi)

/-- A range read in two parts. -/
theorem Memory.readBytes_add (m : Memory) (a n k : Nat) :
    Memory.readBytes m a (n + k) = Memory.readBytes m a n ++ Memory.readBytes m (a + n) k := by
  simp [Memory.readBytes, List.range_add, Nat.add_assoc]

@[simp] theorem length_bytesOfHalf (v : Half) : (bytesOfHalf v).length = 2 := rfl

@[simp] theorem length_bytesOfWord (v : Word) : (bytesOfWord v).length = 4 := rfl

/-- The number that two bytes make (00_scope.md R16). -/
theorem toNat_le16Of (b0 b1 : Byte) : (le16Of b0 b1).toNat = b0.toNat + 256 * b1.toNat := by
  have h : (le16Of b0 b1).toNat = b1.toNat <<< 8 ||| b0.toNat := BitVec.toNat_append b1 b0
  rw [h, ← Nat.shiftLeft_add_eq_or_of_lt b0.isLt, Nat.shiftLeft_eq]
  omega

/-- The number that four bytes make (00_scope.md R16). -/
theorem toNat_le32Of (b0 b1 b2 b3 : Byte) :
    (le32Of b0 b1 b2 b3).toNat =
      b0.toNat + 256 * b1.toNat + 65536 * b2.toNat + 16777216 * b3.toNat := by
  have h : (le32Of b0 b1 b2 b3).toNat = (b3 ++ b2 ++ b1 : BitVec (8 + 8 + 8)).toNat <<< 8 ||| b0.toNat :=
    BitVec.toNat_append (b3 ++ b2 ++ b1) b0
  have h1 : (b3 ++ b2 ++ b1 : BitVec (8 + 8 + 8)).toNat = (b3 ++ b2).toNat <<< 8 ||| b1.toNat :=
    BitVec.toNat_append (b3 ++ b2) b1
  have h2 : (b3 ++ b2).toNat = b3.toNat <<< 8 ||| b2.toNat := BitVec.toNat_append b3 b2
  rw [h, ← Nat.shiftLeft_add_eq_or_of_lt b0.isLt, h1, ← Nat.shiftLeft_add_eq_or_of_lt b1.isLt, h2,
    ← Nat.shiftLeft_add_eq_or_of_lt b2.isLt]
  simp only [Nat.shiftLeft_eq]
  omega

/-- A 16-bit value read back from its two bytes. -/
theorem le16Of_bytes (v : Half) : le16Of (bitField v 0 8) (bitField v 8 8) = v := by
  simp only [le16Of, bitField]
  ext i hi
  simp only [BitVec.getElem_append, BitVec.getElem_extractLsb']
  split <;> simp_all [BitVec.getLsbD_eq_getElem]

/-- A 32-bit value read back from its four bytes. -/
theorem le32Of_bytes (v : Word) :
    le32Of (bitField v 0 8) (bitField v 8 8) (bitField v 16 8) (bitField v 24 8) = v := by
  simp only [le32Of, bitField]
  ext i hi
  simp only [BitVec.getElem_append, BitVec.getElem_extractLsb']
  split
  · simp_all [BitVec.getLsbD_eq_getElem]
  · split
    · have h : 8 + (i - 8) = i := by omega
      simp [h, BitVec.getLsbD_eq_getElem hi]
    · split
      · have h : 16 + (i - 8 - 8) = i := by omega
        simp [h, BitVec.getLsbD_eq_getElem hi]
      · have h : 24 + (i - 8 - 8 - 8) = i := by omega
        simp [h, BitVec.getLsbD_eq_getElem hi]

/-- A 16-bit field reads back as written. -/
theorem Memory.half_writeBytes {m : Memory} (h : m.wf) (a : Nat) (v : Half) :
    Memory.half (Memory.writeBytes m a (bytesOfHalf v)) a = v := by
  simp only [Memory.half, Memory.read_writeBytes h]
  simpa [bytesOfHalf] using le16Of_bytes v

/-- A 32-bit field reads back as written. -/
theorem Memory.word_writeBytes {m : Memory} (h : m.wf) (a : Nat) (v : Word) :
    Memory.word (Memory.writeBytes m a (bytesOfWord v)) a = v := by
  simp only [Memory.word, Memory.read_writeBytes h]
  simpa [bytesOfWord] using le32Of_bytes v

/-- Writing bytes elsewhere leaves a 16-bit field. -/
theorem Memory.half_writeBytes_of_disjoint {m : Memory} (h : m.wf) {a a₁ : Nat} {bs : List Byte}
    (hd : a₁ + 2 ≤ a ∨ a + bs.length ≤ a₁) :
    Memory.half (Memory.writeBytes m a bs) a₁ = Memory.half m a₁ := by
  simp only [Memory.half, Memory.read_writeBytes h]
  rw [if_neg (by omega), if_neg (by omega)]

/-- Writing bytes elsewhere leaves a 32-bit field. -/
theorem Memory.word_writeBytes_of_disjoint {m : Memory} (h : m.wf) {a a₁ : Nat} {bs : List Byte}
    (hd : a₁ + 4 ≤ a ∨ a + bs.length ≤ a₁) :
    Memory.word (Memory.writeBytes m a bs) a₁ = Memory.word m a₁ := by
  simp only [Memory.word, Memory.read_writeBytes h]
  rw [if_neg (by omega), if_neg (by omega), if_neg (by omega), if_neg (by omega)]

/-- Reset lists nothing, so every space is canonical. -/
theorem reset_memory_wf : State.reset.pref.wf ∧ ∀ i, (State.reset.recs.get i).wf :=
  ⟨Memory.wf_nil, fun i => by
    simp only [State.reset, State.resetWith, Bank.get_fill]
    exact Memory.wf_nil⟩

end Machine
end Sys2Proof
end

