-- ==== Sys2Proof/Laws/State.lean ====
section
/-! SUPPORT. What each named update of the state leaves in each field, one lemma per field, so that no later
proof unfolds an update. -/

namespace Sys2Proof.Machine

/-! ### `emit` -/

@[simp] theorem State.emit_cfg (s : State) (es : List OutEvent) : (s.emit es).cfg = s.cfg := rfl

@[simp] theorem State.emit_rxq (s : State) (es : List OutEvent) : (s.emit es).rxq = s.rxq := rfl

@[simp] theorem State.emit_recs (s : State) (es : List OutEvent) : (s.emit es).recs = s.recs := rfl

@[simp] theorem State.emit_pref (s : State) (es : List OutEvent) : (s.emit es).pref = s.pref := rfl

@[simp] theorem State.emit_prefValid (s : State) (es : List OutEvent) : (s.emit es).prefValid = s.prefValid := rfl

@[simp] theorem State.emit_calStep (s : State) (es : List OutEvent) : (s.emit es).calStep = s.calStep := rfl

@[simp] theorem State.emit_calRemaining (s : State) (es : List OutEvent) : (s.emit es).calRemaining = s.calRemaining := rfl

@[simp] theorem State.emit_cal (s : State) (es : List OutEvent) : (s.emit es).cal = s.cal := rfl

@[simp] theorem State.emit_thrCycle (s : State) (es : List OutEvent) : (s.emit es).thrCycle = s.thrCycle := rfl

@[simp] theorem State.emit_hbCount (s : State) (es : List OutEvent) : (s.emit es).hbCount = s.hbCount := rfl

@[simp] theorem State.emit_out (s : State) (es : List OutEvent) :
    (s.emit es).out = s.out ++ es := rfl

@[simp] theorem State.emit_atanAngle (s : State) (es : List OutEvent) : (s.emit es).atanAngle = s.atanAngle := rfl

@[simp] theorem State.emit_memRdata (s : State) (es : List OutEvent) : (s.emit es).memRdata = s.memRdata := rfl

@[simp] theorem State.emit_conds (s : State) (es : List OutEvent) : (s.emit es).conds = s.conds := rfl

@[simp] theorem State.emit_pending (s : State) (es : List OutEvent) : (s.emit es).pending = s.pending := rfl

@[simp] theorem State.emit_freeCount (s : State) (es : List OutEvent) : (s.emit es).freeCount = s.freeCount := rfl

@[simp] theorem State.emit_nil (s : State) : s.emit [] = s := by
  simp [State.emit]

@[simp] theorem State.emit_emit (s : State) (es fs : List OutEvent) :
    (s.emit es).emit fs = s.emit (es ++ fs) := by
  simp [State.emit]

/-! ### `sendToken` -/

@[simp] theorem State.sendToken_cfg (s : State) (t : Token) : (s.sendToken t).cfg = s.cfg := rfl

@[simp] theorem State.sendToken_rxq (s : State) (t : Token) : (s.sendToken t).rxq = s.rxq := rfl

@[simp] theorem State.sendToken_recs (s : State) (t : Token) : (s.sendToken t).recs = s.recs := rfl

@[simp] theorem State.sendToken_pref (s : State) (t : Token) : (s.sendToken t).pref = s.pref := rfl

@[simp] theorem State.sendToken_prefValid (s : State) (t : Token) : (s.sendToken t).prefValid = s.prefValid := rfl

@[simp] theorem State.sendToken_calStep (s : State) (t : Token) : (s.sendToken t).calStep = s.calStep := rfl

@[simp] theorem State.sendToken_calRemaining (s : State) (t : Token) : (s.sendToken t).calRemaining = s.calRemaining := rfl

@[simp] theorem State.sendToken_cal (s : State) (t : Token) : (s.sendToken t).cal = s.cal := rfl

@[simp] theorem State.sendToken_thrCycle (s : State) (t : Token) : (s.sendToken t).thrCycle = s.thrCycle := rfl

@[simp] theorem State.sendToken_hbCount (s : State) (t : Token) : (s.sendToken t).hbCount = s.hbCount := rfl

@[simp] theorem State.sendToken_out (s : State) (t : Token) :
    (s.sendToken t).out = s.out ++ txEvents (s.cfg.tokenBytes t) := rfl

@[simp] theorem State.sendToken_atanAngle (s : State) (t : Token) : (s.sendToken t).atanAngle = s.atanAngle := rfl

@[simp] theorem State.sendToken_memRdata (s : State) (t : Token) : (s.sendToken t).memRdata = s.memRdata := rfl

@[simp] theorem State.sendToken_conds (s : State) (t : Token) : (s.sendToken t).conds = s.conds := rfl

@[simp] theorem State.sendToken_pending (s : State) (t : Token) : (s.sendToken t).pending = s.pending := rfl

@[simp] theorem State.sendToken_freeCount (s : State) (t : Token) : (s.sendToken t).freeCount = s.freeCount := rfl

/-! ### `setRecord` -/

@[simp] theorem State.setRecord_cfg (s : State) (k : RecKind) (m : Memory) :
    (s.setRecord k m).cfg = s.cfg := rfl

@[simp] theorem State.setRecord_rxq (s : State) (k : RecKind) (m : Memory) :
    (s.setRecord k m).rxq = s.rxq := rfl

@[simp] theorem State.setRecord_recs (s : State) (k : RecKind) (m : Memory) :
    (s.setRecord k m).recs = s.recs.set k.idx m := rfl

@[simp] theorem State.setRecord_pref (s : State) (k : RecKind) (m : Memory) :
    (s.setRecord k m).pref = s.pref := rfl

@[simp] theorem State.setRecord_prefValid (s : State) (k : RecKind) (m : Memory) :
    (s.setRecord k m).prefValid = s.prefValid := rfl

@[simp] theorem State.setRecord_calStep (s : State) (k : RecKind) (m : Memory) :
    (s.setRecord k m).calStep = s.calStep := rfl

@[simp] theorem State.setRecord_calRemaining (s : State) (k : RecKind) (m : Memory) :
    (s.setRecord k m).calRemaining = s.calRemaining := rfl

@[simp] theorem State.setRecord_cal (s : State) (k : RecKind) (m : Memory) :
    (s.setRecord k m).cal = s.cal := rfl

@[simp] theorem State.setRecord_thrCycle (s : State) (k : RecKind) (m : Memory) :
    (s.setRecord k m).thrCycle = s.thrCycle := rfl

@[simp] theorem State.setRecord_hbCount (s : State) (k : RecKind) (m : Memory) :
    (s.setRecord k m).hbCount = s.hbCount := rfl

@[simp] theorem State.setRecord_out (s : State) (k : RecKind) (m : Memory) :
    (s.setRecord k m).out = s.out := rfl

@[simp] theorem State.setRecord_atanAngle (s : State) (k : RecKind) (m : Memory) :
    (s.setRecord k m).atanAngle = s.atanAngle := rfl

@[simp] theorem State.setRecord_memRdata (s : State) (k : RecKind) (m : Memory) :
    (s.setRecord k m).memRdata = s.memRdata := rfl

@[simp] theorem State.setRecord_conds (s : State) (k : RecKind) (m : Memory) :
    (s.setRecord k m).conds = s.conds := rfl

@[simp] theorem State.setRecord_pending (s : State) (k : RecKind) (m : Memory) :
    (s.setRecord k m).pending = s.pending := rfl

@[simp] theorem State.setRecord_freeCount (s : State) (k : RecKind) (m : Memory) :
    (s.setRecord k m).freeCount = s.freeCount := rfl

@[simp] theorem State.record_setRecord_same (s : State) (k : RecKind) (m : Memory) :
    (s.setRecord k m).record k = m := by
  simp [State.record]

theorem State.record_setRecord_ne (s : State) {k l : RecKind} (m : Memory) (h : l ≠ k) :
    (s.setRecord k m).record l = s.record l := by
  simp only [State.record, State.setRecord_recs]
  exact Bank.get_set_ne _ _ fun e => h (RecKind.idx_inj e)

@[simp] theorem State.record_emit (s : State) (es : List OutEvent) (k : RecKind) :
    (s.emit es).record k = s.record k := rfl

/-! ### `abortWith` -/

@[simp] theorem abortWith_cfg (m : Msg) (s : State) : (abortWith m s).cfg = s.cfg := rfl

@[simp] theorem abortWith_rxq (m : Msg) (s : State) : (abortWith m s).rxq = s.rxq := rfl

@[simp] theorem abortWith_recs (m : Msg) (s : State) : (abortWith m s).recs = s.recs := rfl

@[simp] theorem abortWith_pref (m : Msg) (s : State) : (abortWith m s).pref = s.pref := rfl

@[simp] theorem abortWith_prefValid (m : Msg) (s : State) : (abortWith m s).prefValid = s.prefValid := rfl

@[simp] theorem abortWith_calStep (m : Msg) (s : State) : (abortWith m s).calStep = s.calStep := rfl

@[simp] theorem abortWith_calRemaining (m : Msg) (s : State) : (abortWith m s).calRemaining = s.calRemaining := rfl

@[simp] theorem abortWith_cal (m : Msg) (s : State) : (abortWith m s).cal = s.cal := rfl

@[simp] theorem abortWith_thrCycle (m : Msg) (s : State) : (abortWith m s).thrCycle = .c0 := rfl

@[simp] theorem abortWith_hbCount (m : Msg) (s : State) : (abortWith m s).hbCount = s.hbCount := rfl

@[simp] theorem abortWith_out (m : Msg) (s : State) :
    (abortWith m s).out = s.out ++ abortEvents s.cfg m := rfl

@[simp] theorem abortWith_atanAngle (m : Msg) (s : State) : (abortWith m s).atanAngle = s.atanAngle := rfl

@[simp] theorem abortWith_memRdata (m : Msg) (s : State) : (abortWith m s).memRdata = s.memRdata := rfl

@[simp] theorem abortWith_conds (m : Msg) (s : State) : (abortWith m s).conds = s.conds := rfl

@[simp] theorem abortWith_pending (m : Msg) (s : State) : (abortWith m s).pending = s.pending := rfl

@[simp] theorem abortWith_freeCount (m : Msg) (s : State) : (abortWith m s).freeCount = s.freeCount := rfl

/-! ### `takeCondition` -/

@[simp] theorem takeCondition_cfg (c : Condition) (s : State) : (takeCondition c s).cfg = s.cfg := by
  cases c <;> rfl

@[simp] theorem takeCondition_rxq (c : Condition) (s : State) : (takeCondition c s).rxq = s.rxq := by
  cases c <;> rfl

@[simp] theorem takeCondition_recs (c : Condition) (s : State) : (takeCondition c s).recs = s.recs := by
  cases c <;> rfl

@[simp] theorem takeCondition_pref (c : Condition) (s : State) : (takeCondition c s).pref = s.pref := by
  cases c <;> rfl

@[simp] theorem takeCondition_prefValid (c : Condition) (s : State) : (takeCondition c s).prefValid = s.prefValid := by
  cases c <;> rfl

@[simp] theorem takeCondition_calStep (c : Condition) (s : State) : (takeCondition c s).calStep = s.calStep := by
  cases c <;> rfl

@[simp] theorem takeCondition_calRemaining (c : Condition) (s : State) : (takeCondition c s).calRemaining = s.calRemaining := by
  cases c <;> rfl

@[simp] theorem takeCondition_cal (c : Condition) (s : State) : (takeCondition c s).cal = s.cal := by
  cases c <;> rfl

@[simp] theorem takeCondition_hbCount (c : Condition) (s : State) : (takeCondition c s).hbCount = s.hbCount := by
  cases c <;> rfl

@[simp] theorem takeCondition_atanAngle (c : Condition) (s : State) : (takeCondition c s).atanAngle = s.atanAngle := by
  cases c <;> rfl

@[simp] theorem takeCondition_memRdata (c : Condition) (s : State) : (takeCondition c s).memRdata = s.memRdata := by
  cases c <;> rfl

@[simp] theorem takeCondition_conds (c : Condition) (s : State) :
    (takeCondition c s).conds = s.conds ++ [c] := by
  cases c <;> rfl

@[simp] theorem takeCondition_pending (c : Condition) (s : State) : (takeCondition c s).pending = s.pending := by
  cases c <;> rfl

@[simp] theorem takeCondition_freeCount (c : Condition) (s : State) : (takeCondition c s).freeCount = s.freeCount := by
  cases c <;> rfl

/-! ### `applyReset` -/

@[simp] theorem applyReset_cfg (s : State) : (applyReset s).cfg = s.cfg := rfl

@[simp] theorem applyReset_pending (s : State) : (applyReset s).pending = s.pending := rfl

@[simp] theorem applyReset_freeCount (s : State) : (applyReset s).freeCount = s.freeCount := rfl

/-! ### The trace -/

@[simp] theorem txEvents_nil : txEvents [] = [] := rfl

@[simp] theorem txEvents_append (as bs : List Byte) : txEvents (as ++ bs) = txEvents as ++ txEvents bs := by
  simp [txEvents]

/-- A trace of sent bytes, gaps and notifications leaves the message as it was. -/
theorem foldl_msgAfter_of_no_msg (m : Msg) {es : List OutEvent} (h : ∀ e ∈ es, ∀ k, e ≠ .msg k) :
    es.foldl msgAfter m = m := by
  induction es with
  | nil => rfl
  | cons e es ih =>
    have he := h e (by simp)
    have ih := ih fun f hf => h f (by simp [hf])
    cases e with
    | msg k => exact absurd rfl (he k)
    | tx b => exact ih
    | gap g => exact ih
    | notify k => exact ih

@[simp] theorem foldl_msgAfter_txEvents (m : Msg) (bs : List Byte) : (txEvents bs).foldl msgAfter m = m :=
  foldl_msgAfter_of_no_msg m fun e he k => by
    obtain ⟨b, -, rfl⟩ := List.mem_map.mp he
    simp

end Sys2Proof.Machine
end

