-- ==== Sys2Proof/Laws/Ops.lean ====
section
/-! SUPPORT. For each shared operation, one lemma that says once everything it can do; later proofs cite it
instead of unfolding the operation. -/

namespace Sys2Proof.Machine

/-! ### Conditions -/

/-- The events the handling of a condition emits (60_exceptions.md R215). -/
def handlingEvents (c : Config) : Condition → List OutEvent
  | .checksumMismatch => txEvents (c.tokenBytes .queryPrefs)
  | .interlockProps => abortEvents c .warnProps
  | .interlockBattery => abortEvents c .warnBattery
  | .degenerateRange _ | .unknownMode | .reservedRequest => []

/-- The throttle cycle after the handling of a condition (R224). -/
def handledCycle (x : ThrCycle) : Condition → ThrCycle
  | .interlockProps | .interlockBattery => .c0
  | .checksumMismatch | .degenerateRange _ | .unknownMode | .reservedRequest => x

/-- Everything a condition does. -/
theorem takeCondition_eq (c : Condition) (s : State) :
    takeCondition c s =
      { s with
        conds := s.conds ++ [c]
        out := s.out ++ handlingEvents s.cfg c
        thrCycle := handledCycle s.thrCycle c } := by
  cases c <;> simp [takeCondition, handleCondition, handlingEvents, handledCycle, abortWith, State.sendToken,
    State.emit]

/-! ### The framer -/

/-- Everything `nextPacket` does. -/
theorem nextPacket_eq (s : State) :
    nextPacket s = (nextFrame s.rxq).map fun r => (r.1, { s with rxq := r.2 }) := by
  simp only [nextPacket]
  cases nextFrame s.rxq <;> rfl

/-- The three ways a packet is dispatched. -/
theorem dispatch_cases (p : Packet) (s : State) :
    (∃ k, kindOfMode s.cfg p.mode = some (.telemetry k) ∧ dispatch p s = decodeRec k p.payload s) ∨
      (kindOfMode s.cfg p.mode = some .settings ∧ dispatch p s = settingsFrame p.payload s) ∨
      (kindOfMode s.cfg p.mode = none ∧ dispatch p s = unknownFrame s) := by
  simp only [dispatch]
  cases h : kindOfMode s.cfg p.mode with
  | none => exact .inr (.inr ⟨rfl, rfl⟩)
  | some k =>
    cases k with
    | telemetry k => exact .inl ⟨k, rfl, rfl⟩
    | settings => exact .inr (.inl ⟨rfl, rfl⟩)

/-- Everything a telemetry frame does. -/
theorem decodeRec_eq (k : RecKind) (payload : List Byte) (s : State) :
    decodeRec k payload s =
      { s with
        recs := s.recs.set k.idx (Memory.ofBytes (s.recordSize k) payload)
        out := s.out ++ [.notify (.telemetry k)] } := rfl

/-- Everything a settings frame does. -/
theorem settingsFrame_eq (payload : List Byte) (s : State) :
    settingsFrame payload s =
      if validate s.cfg (stage s.cfg payload) then
        { s with
          pref := stage s.cfg payload
          prefValid := true
          out := s.out ++ [.notify .settings] }
      else
        { s with
          conds := s.conds ++ [.checksumMismatch]
          out := s.out ++ (txEvents (s.cfg.tokenBytes .queryPrefs) ++ [.notify .settings]) } := by
  simp only [settingsFrame, takeCondition_eq, handlingEvents, handledCycle]
  split <;> simp [State.emit]

/-- What holds before the drain and after every packet holds after the drain: the induction over the
packets, made once. -/
theorem drain_induction {P : State → Prop} {s : State} (h0 : P s)
    (hstep : ∀ s p rest, P s → nextFrame s.rxq = some (p, rest) → P (dispatch p { s with rxq := rest })) :
    P (drain s) := by
  have key : ∀ n s, P s → P (drainUpTo n s) := by
    intro n
    induction n with
    | zero => exact fun s h => h
    | succ n ih =>
      intro s h
      simp only [drainUpTo, nextPacket_eq]
      cases hf : nextFrame s.rxq with
      | none => exact h
      | some r =>
        obtain ⟨p, rest⟩ := r
        exact ih _ (hstep s p rest h hf)
  exact key _ s h0

/-! ### The upload -/

/-- Everything an upload does. -/
theorem upload_eq (s : State) :
    upload s =
      { s with
        pref := stamp s.cfg s.pref
        out := s.out ++ uploadEvents s.cfg (stamp s.cfg s.pref) } := rfl

/-! ### The radio calibration -/

/-- Everything one channel of the Apply tick does. -/
theorem applyChannel_cases (ch : Fin 8) (s : State) :
    ((s.cal.get ch).moved = false ∧ applyChannel ch s = s) ∨
      ((s.cal.get ch).moved = true ∧ (s.cal.get ch).range = 0 ∧
        applyChannel ch s = { s with conds := s.conds ++ [.degenerateRange ch] }) ∨
      ((s.cal.get ch).moved = true ∧ (s.cal.get ch).range ≠ 0 ∧
        applyChannel ch s = { s with pref := writeChannel s.cfg (s.cal.get ch) ch s.pref }) := by
  simp only [applyChannel]
  cases hm : (s.cal.get ch).moved with
  | false => exact .inl ⟨rfl, by simp⟩
  | true =>
    by_cases hr : (s.cal.get ch).range = 0
    · exact .inr (.inl ⟨rfl, hr, by simp [hr, takeCondition_eq, handlingEvents, handledCycle]⟩)
    · exact .inr (.inr ⟨rfl, hr, by simp [hr]⟩)

/-- What every channel of the Apply tick keeps, all eight keep. -/
theorem applyChannels_induction {P : State → Prop} {s : State} (h0 : P s)
    (hstep : ∀ ch s, P s → P (applyChannel ch s)) : P (applyChannels s) := by
  simp only [applyChannels]
  generalize channels = cs
  induction cs generalizing s with
  | nil => exact h0
  | cons c cs ih => exact ih (hstep c s h0)

/-- Everything `LEAVE_VIEW` does. -/
theorem leaveView_eq (s : State) :
    leaveView s =
      if s.calStep = .idle ∧ s.thrCycle = .c0 then s
      else
        { s with
          calStep := .idle
          calRemaining := 0#32
          thrCycle := .c0
          out := s.out ++ ((if s.thrCycle = .c0 then [] else txEvents (s.cfg.tokenBytes .thrEsc)) ++
            txEvents (s.cfg.revertSeq.flatMap s.cfg.tokenBytes)) } := by
  by_cases h : s.calStep = .idle ∧ s.thrCycle = .c0
  · simp [leaveView, h]
  · rw [leaveView, if_neg h, if_neg h]
    by_cases ht : s.thrCycle = .c0
    · simp [sendRevert, leaveThrottle, ht, State.emit]
    · simp [sendRevert, leaveThrottle, ht, State.emit, State.sendToken]

/-! ### One step -/

/-- The three ways a step goes on. -/
theorem step_cases {s t : State} (h : step s = .next t) :
    (s.pending = [] ∧ t = s) ∨
      (∃ rest, s.pending = .reset :: rest ∧ t = applyReset { s with pending := rest }) ∨
      (∃ w rest i, s.pending = .strobe w :: rest ∧ decode s.cfg w = .ok i ∧
        exec i { s with pending := rest } = .next t) := by
  simp only [step, fetchEvent] at h
  cases hp : s.pending with
  | nil =>
    rw [hp] at h
    simp only [Host.Outcome.next.injEq] at h
    exact .inl ⟨rfl, h.symm⟩
  | cons e rest =>
    rw [hp] at h
    cases e with
    | reset =>
      simp only [Host.Outcome.next.injEq] at h
      exact .inr (.inl ⟨rest, rfl, h.symm⟩)
    | strobe w =>
      simp only at h
      cases hd : decode s.cfg w with
      | error e => simp [hd] at h
      | ok i =>
        rw [hd] at h
        exact .inr (.inr ⟨w, rest, i, rfl, hd, h⟩)

end Sys2Proof.Machine
end

