-- ==== Sys2Proof/Laws/PerInstr.lean ====
section
/-! SUPPORT. Statements made once per operation of the block. -/

namespace Sys2Proof.Laws.Format

/-- The encoder gives every operation a word of its row's format (30_encoding.md R70). -/
def Statement (i : Instr) : Prop := ∀ c : Config, (encode c i).format = i.format

theorem atan2 (x y : Word) : Statement (.atan2 x y) := fun _ => rfl

theorem rxByte (b : Byte) : Statement (.rxByte b) := fun _ => rfl

theorem tick : Statement .tick := fun _ => rfl

theorem hostMemRead (space : BitVec 4) (addr : Half) : Statement (.hostMemRead space addr) := fun _ => rfl

theorem hostMemWrite (space : BitVec 4) (addr : Half) (data : Byte) : Statement (.hostMemWrite space addr data) := fun _ => rfl

theorem frameRadio (payload : List Byte) : Statement (.frameRadio payload) := fun _ => rfl

theorem frameSensors (payload : List Byte) : Statement (.frameSensors payload) := fun _ => rfl

theorem frameQuat (payload : List Byte) : Statement (.frameQuat payload) := fun _ => rfl

theorem frameComputed (payload : List Byte) : Statement (.frameComputed payload) := fun _ => rfl

theorem frameMotors (payload : List Byte) : Statement (.frameMotors payload) := fun _ => rfl

theorem frameTargetQuat (payload : List Byte) : Statement (.frameTargetQuat payload) := fun _ => rfl

theorem frameDebug (payload : List Byte) : Statement (.frameDebug payload) := fun _ => rfl

theorem frameGps (payload : List Byte) : Statement (.frameGps payload) := fun _ => rfl

theorem frameSettings (payload : List Byte) : Statement (.frameSettings payload) := fun _ => rfl

theorem frameUnknown (mode : Byte) (payload : List Byte) : Statement (.frameUnknown mode payload) := fun _ => rfl

theorem reqNop : Statement .reqNop := fun _ => rfl

theorem reqStartRadioCal : Statement .reqStartRadioCal := fun _ => rfl

theorem reqLeaveView : Statement .reqLeaveView := fun _ => rfl

theorem reqThrAdvance (ack : Bool) : Statement (.reqThrAdvance ack) := fun _ => rfl

theorem reqThrCancel : Statement .reqThrCancel := fun _ => rfl

theorem reqUploadPrefs : Statement .reqUploadPrefs := fun _ => rfl

theorem reqQueryPrefs : Statement .reqQueryPrefs := fun _ => rfl

theorem reqWipePrefs : Statement .reqWipePrefs := fun _ => rfl

theorem reqResetRadio : Statement .reqResetRadio := fun _ => rfl

theorem reqRevertGyro : Statement .reqRevertGyro := fun _ => rfl

theorem reqRevertAccel : Statement .reqRevertAccel := fun _ => rfl

theorem reqZeroGyro : Statement .reqZeroGyro := fun _ => rfl

theorem reqZeroAccel : Statement .reqZeroAccel := fun _ => rfl

theorem reqMotorTest : Statement .reqMotorTest := fun _ => rfl

theorem reqReservedE : Statement .reqReservedE := fun _ => rfl

theorem reqReservedF : Statement .reqReservedF := fun _ => rfl

theorem thr0to1 (ack : Bool) : Statement (.thr0to1 ack) := fun _ => rfl

theorem thr1to2 : Statement .thr1to2 := fun _ => rfl

theorem thr2to3 : Statement .thr2to3 := fun _ => rfl

theorem thr3to0 : Statement .thr3to0 := fun _ => rfl

theorem calIdle : Statement .calIdle := fun _ => rfl

theorem calReset : Statement .calReset := fun _ => rfl

theorem calSampling : Statement .calSampling := fun _ => rfl

theorem calApply : Statement .calApply := fun _ => rfl

theorem heartbeat : Statement .heartbeat := fun _ => rfl

theorem tokenHeartbeat : Statement .tokenHeartbeat := fun _ => rfl

theorem tokenQueryPrefs : Statement .tokenQueryPrefs := fun _ => rfl

theorem tokenUpdatePrefs : Statement .tokenUpdatePrefs := fun _ => rfl

theorem tokenWipePrefs : Statement .tokenWipePrefs := fun _ => rfl

theorem tokenResetRadio : Statement .tokenResetRadio := fun _ => rfl

theorem tokenRevertGyro : Statement .tokenRevertGyro := fun _ => rfl

theorem tokenRevertAccel : Statement .tokenRevertAccel := fun _ => rfl

theorem tokenZeroGyro : Statement .tokenZeroGyro := fun _ => rfl

theorem tokenZeroAccel : Statement .tokenZeroAccel := fun _ => rfl

theorem tokenThrottleCal : Statement .tokenThrottleCal := fun _ => rfl

theorem tokenThrMax : Statement .tokenThrMax := fun _ => rfl

theorem tokenThrEsc : Statement .tokenThrEsc := fun _ => rfl

theorem uploadStream : Statement .uploadStream := fun _ => rfl

end Sys2Proof.Laws.Format
end

