-- ==== Sys2Proof/Laws/Units.lean ====
section
/-! SUPPORT. What each unit's operations do and leave alone, said once: the framer and its drain, the
checksum, the layout of `PREF`, the calibration phases, the sequencer's transitions and the heartbeat. -/

namespace Sys2Proof.Machine

/-! ### The framer -/

/-- A frame takes its three header bytes and its payload from the head, and leaves a tail. -/
theorem nextFrame_tail {q rest : List Byte} {p : Packet} (h : nextFrame q = some (p, rest)) :
    rest.length + 3 ≤ q.length ∧ rest <:+ q := by
  match q with
  | [] | [_] | [_, _] => simp [nextFrame] at h
  | m :: a :: b :: q =>
    simp only [nextFrame] at h
    split at h
    · simp at h
    · simp only [Option.some.injEq, Prod.mk.injEq] at h
      obtain ⟨-, rfl⟩ := h
      exact ⟨by simp, (List.drop_suffix _ _).trans ⟨[m, a, b], rfl⟩⟩

/-- Dispatching a packet leaves the queue. -/
theorem dispatch_rxq (p : Packet) (s : State) : (dispatch p s).rxq = s.rxq := by
  obtain ⟨k, -, e⟩ | ⟨-, e⟩ | ⟨-, e⟩ := dispatch_cases p s <;> rw [e]
  · rfl
  · rw [settingsFrame_eq]
    split <;> rfl
  · simp [unknownFrame]

/-- Everything a drain can write (45_tick_loop.md R204). -/
theorem drain_writes (s : State) :
    drain s =
      { s with
        rxq := (drain s).rxq
        recs := (drain s).recs
        pref := (drain s).pref
        prefValid := (drain s).prefValid
        out := (drain s).out
        conds := (drain s).conds } := by
  refine drain_induction (P := fun t => t =
    { s with
      rxq := t.rxq, recs := t.recs, pref := t.pref, prefValid := t.prefValid
      out := t.out, conds := t.conds }) rfl ?_
  intro u p rest hu _
  obtain ⟨k, -, e⟩ | ⟨-, e⟩ | ⟨-, e⟩ := dispatch_cases p { u with rxq := rest } <;> rw [e]
  · rw [decodeRec_eq, hu]
  · rw [settingsFrame_eq, hu]
    split <;> rfl
  · rw [unknownFrame, takeCondition_eq, hu]
    rfl

/-! ### The checksum and the layout of `PREF` -/

/-- What the stamp leaves: every byte but the four of the checksum field. -/
theorem read_stamp_of_ne (c : Config) {m : Memory} (hm : m.wf) {a : Nat}
    (ha : a < c.ckOff ∨ c.ckOff + 4 ≤ a) : (stamp c m).read a = m.read a := by
  rw [stamp, Memory.read_writeBytes hm, if_neg]
  rw [length_bytesOfWord]
  omega

/-- What the stamp writes. -/
theorem prefChecksum_stamp (c : Config) {m : Memory} (hm : m.wf) :
    prefChecksum c (stamp c m) = recordCksum c m := Memory.word_writeBytes hm _ _

/-- The checksum of a body does not depend on the checksum field. -/
theorem recordCksum_congr (c : Config) {m n : Memory} (h : ∀ a, a < c.ckOff → m.read a = n.read a) :
    recordCksum c m = recordCksum c n := by
  rw [recordCksum, recordCksum, Memory.readBytes_congr]
  intro i hi
  exact h _ (by omega)

/-- The stamp keeps the canonical form. -/
theorem wf_stamp (c : Config) {m : Memory} (hm : m.wf) : (stamp c m).wf := Memory.wf_writeBytes hm _ _

/-- Two different members of a list of pairwise related things are related, for a symmetric relation. -/
theorem pairwise_of_ne {R : Fin 8 → Fin 8 → Prop} (hs : ∀ a b, R a b → R b a)
    (h : channels.Pairwise R) {i j : Fin 8} (hij : i ≠ j) : R i j := by
  simp only [channels, List.pairwise_cons] at h
  obtain ⟨h0, h1, h2, h3, h4, h5, h6, -, -⟩ := h
  have key : ∀ a b : Fin 8, a < b → R a b := by
    intro a b hab
    fin_cases a <;> fin_cases b <;>
      first
        | exact absurd hab (by decide)
        | exact h0 _ (by simp)
        | exact h1 _ (by simp)
        | exact h2 _ (by simp)
        | exact h3 _ (by simp)
        | exact h4 _ (by simp)
        | exact h5 _ (by simp)
        | exact h6 _ (by simp)
  rcases Nat.lt_or_gt_of_ne (fun e => hij (Fin.ext e)) with h | h
  · exact key i j h
  · exact hs _ _ (key j i h)

/-- Every scale and center lies before the checksum field (00_scope.md R11). -/
theorem fields_before_checksum {c : Config} (h : c.PrefOk) (i : Fin 8) :
    c.scaleOff.get i + 4 ≤ c.ckOff ∧ c.centerOff.get i + 2 ≤ c.ckOff := by
  obtain ⟨-, -, h1, -⟩ := h
  constructor
  · refine h1 (c.scaleOff.get i, 4) ?_
    simp only [Config.prefFields, List.mem_append, List.mem_map]
    exact .inl ⟨i, by simp, rfl⟩
  · refine h1 (c.centerOff.get i, 2) ?_
    simp only [Config.prefFields, List.mem_append, List.mem_map]
    exact .inr ⟨i, by simp, rfl⟩

/-- No two fields of the channel table overlap (20_memory.md R56). -/
theorem fields_disjoint {c : Config} (h : c.PrefOk) :
    (∀ i j : Fin 8, i ≠ j →
      c.scaleOff.get i + 4 ≤ c.scaleOff.get j ∨ c.scaleOff.get j + 4 ≤ c.scaleOff.get i) ∧
    (∀ i j : Fin 8, i ≠ j →
      c.centerOff.get i + 2 ≤ c.centerOff.get j ∨ c.centerOff.get j + 2 ≤ c.centerOff.get i) ∧
    ∀ i j : Fin 8, c.scaleOff.get i + 4 ≤ c.centerOff.get j ∨ c.centerOff.get j + 2 ≤ c.scaleOff.get i := by
  obtain ⟨-, -, -, h2⟩ := h
  simp only [Config.prefFields, List.pairwise_append, List.pairwise_map] at h2
  obtain ⟨ha, hb, hd⟩ := h2
  refine ⟨fun i j => ?_, fun i j => ?_, fun i j => ?_⟩
  · exact pairwise_of_ne
      (R := fun i j => c.scaleOff.get i + 4 ≤ c.scaleOff.get j ∨ c.scaleOff.get j + 4 ≤ c.scaleOff.get i)
      (fun _ _ h => h.symm) ha
  · exact pairwise_of_ne
      (R := fun i j => c.centerOff.get i + 2 ≤ c.centerOff.get j ∨ c.centerOff.get j + 2 ≤ c.centerOff.get i)
      (fun _ _ h => h.symm) hb
  · exact hd (c.scaleOff.get i, 4) (List.mem_map.mpr ⟨i, by simp, rfl⟩) (c.centerOff.get j, 2)
      (List.mem_map.mpr ⟨j, by simp, rfl⟩)

/-! ### The calibration phases -/

/-- Everything a Reset tick does. -/
theorem calResetTick_eq (s : State) :
    calResetTick s =
      { s with
        cal := Bank.fill CalSample.cleared
        calStep := .sampling
        calRemaining := BitVec.ofNat 32 s.cfg.samplingTicks
        out := s.out ++ txEvents (s.cfg.tokenBytes .resetRadio) } := rfl

/-- The sampling window writes the samples only. -/
theorem sampleWindow_writes (s : State) : sampleWindow s = { s with cal := (sampleWindow s).cal } := by
  rw [sampleWindow]
  split
  · rfl
  · split <;> rfl

/-- Everything a Sampling tick does, with the new samples named. -/
theorem calSamplingTick_eq (s : State) :
    calSamplingTick s =
      { s with
        cal := (sampleWindow s).cal
        calRemaining := s.calRemaining - 1#32
        calStep := if s.calRemaining - 1#32 = 0#32 then .apply else s.calStep } := by
  rw [calSamplingTick, countdown, sampleWindow_writes s]

/-- The eight channels of an Apply tick write `PREF` and the model's trace only. -/
theorem applyChannels_writes (s : State) :
    applyChannels s = { s with pref := (applyChannels s).pref, conds := (applyChannels s).conds } := by
  refine applyChannels_induction (P := fun t => t = { s with pref := t.pref, conds := t.conds }) rfl ?_
  intro ch u hu
  obtain ⟨-, e⟩ | ⟨-, -, e⟩ | ⟨-, -, e⟩ := applyChannel_cases ch u <;> rw [e]
  · exact hu
  · rw [hu]
  · rw [hu]

/-- Everything an Apply tick does, with the record the channels leave named. -/
theorem calApplyTick_eq (s : State) :
    calApplyTick s =
      { s with
        pref := stamp s.cfg (applyChannels s).pref
        calStep := .idle
        conds := (applyChannels s).conds
        out := s.out ++ uploadEvents s.cfg (stamp s.cfg (applyChannels s).pref) } := by
  rw [calApplyTick, upload_eq, applyChannels_writes s]

/-! ### The throttle sequencer -/

/-- Everything `THR.0TO1` does. -/
theorem thrStart_eq (ack : Bool) (s : State) :
    thrStart ack s =
      if ack then { s with thrCycle := .c1, out := s.out ++ txEvents (s.cfg.tokenBytes .throttleCal) }
      else
        { s with
          conds := s.conds ++ [.interlockProps]
          out := s.out ++ abortEvents s.cfg .warnProps
          thrCycle := .c0 } := by
  cases ack
  · simp [thrStart, takeCondition_eq, handlingEvents, handledCycle]
  · rfl

/-- Everything `THR.1TO2` does. -/
theorem thrMaxThrottle_eq (s : State) :
    thrMaxThrottle s =
      if s.batt = 0#16 then { s with thrCycle := .c2, out := s.out ++ txEvents (s.cfg.tokenBytes .thrMax) }
      else
        { s with
          conds := s.conds ++ [.interlockBattery]
          out := s.out ++ abortEvents s.cfg .warnBattery
          thrCycle := .c0 } := by
  rw [thrMaxThrottle, takeCondition_eq]
  rfl

/-! ### The heartbeat -/

/-- The two ways a heartbeat phase goes. -/
theorem beat_cases (s : State) :
    ((s.hbCount + 1#16).toNat = s.cfg.heartbeatPeriod ∧
      beat s = { s with hbCount := 0#16, out := s.out ++ txEvents (s.cfg.tokenBytes .heartbeat) }) ∨
    ((s.hbCount + 1#16).toNat ≠ s.cfg.heartbeatPeriod ∧ beat s = { s with hbCount := s.hbCount + 1#16 }) := by
  rw [beat]
  split
  · exact .inl ⟨‹_›, rfl⟩
  · exact .inr ⟨‹_›, rfl⟩

end Sys2Proof.Machine
end

