-- ==== Sys2Proof/Tests/Slice0.lean ====
section
/-! SUPPORT. The tests of the model: ill-formed operations, words written out from the encodings, one-step
vectors whose results are those of spec/95_test_vectors.md and of the rules' worked examples, and a witness
for the hypotheses of every statement. -/

namespace Sys2Proof.Tests

open Sys2Proof Sys2Proof.Machine

/-! ### Helpers -/

/-- What `f` shows of the state after an operation that goes on. -/
def seen {α : Type} (f : State → α) (o : Host.Outcome State Fault Refusal) : Option α :=
  match o with
  | .next t => some (f t)
  | _ => none

/-- The angle of a query from reset. -/
def angle (x y : Int) : Option Half :=
  seen State.atanAngle (exec (.atan2 (BitVec.ofInt 32 x) (BitVec.ofInt 32 y)) State.reset)

/-- The operation a word decodes to in the reference configuration. -/
def read (w : OpWord) : Option Instr := (decode Config.ref w).toOption

/-- Outbound bytes as events. -/
def tx (bs : List Byte) : List OutEvent := bs.map .tx

/-- Record `R1` of 95_test_vectors.md section 3.1. -/
def r1 : List Byte :=
  [0x00, 0x04, 0x00, 0x00, 0x00, 0x00, 0x00, 0x00, 0x00, 0xFC, 0xFF, 0xFF, 0x00, 0x00, 0x01, 0x00,
   0x00, 0x04, 0x00, 0x00, 0x00, 0x00, 0x02, 0x00, 0x00, 0x04, 0x00, 0x00, 0x00, 0x00, 0x03, 0x00,
   0x00, 0x04, 0x00, 0x00, 0x00, 0x00, 0x04, 0x00, 0x00, 0x04, 0x00, 0x00, 0x00, 0x00, 0x05, 0x00] ++
  [0x00, 0x04, 0x00, 0x00, 0x00, 0x00, 0x06, 0x00, 0x00, 0x04, 0x00, 0x00, 0x00, 0x00, 0x07, 0x00,
   0xDE, 0xAD, 0xBE, 0xEF, 0x33, 0x1B, 0x30, 0x45]

/-- Record `R1bad`: `R1` with bytes 0, 10 and 65 changed. -/
def r1bad : List Byte := ((r1.set 0 0xFF).set 10 0xFE).set 65 0x2D

/-- The radio frame of vector F4: channels 10, -20, 30, -40, 50, -60, 70, -80 and battery 1180. -/
def radioF4 : List Byte :=
  [0x0A, 0x00, 0xEC, 0xFF, 0x1E, 0x00, 0xD8, 0xFF, 0x32, 0x00, 0xC4, 0xFF, 0x46, 0x00, 0xB0, 0xFF,
   0x9C, 0x04]

/-- Reset, then the radio frame of F4 decoded. -/
def withRadio : State := decodeRec .radio radioF4 State.reset

/-- A sample that moved from -1000 to 1000. -/
def wide : CalSample := ⟨BitVec.ofInt 16 (-1000), 1000, 0, true⟩

/-- Reset with `R1` in `PREF` and channel 1 moved, ready for the Apply tick. -/
def ready : State :=
  { State.reset with
    pref := Memory.ofBytes 72 r1
    calStep := .apply
    cal := (Bank.fill CalSample.cleared).set 1 ⟨100, 1900, 0, true⟩ }

/-- The last sampling tick of a session, which is also a heartbeat tick. -/
def lastSample : State :=
  { State.reset with calStep := .sampling, calRemaining := 1, hbCount := 19, pending := [.strobe .tick] }

/-! ### Well-formedness: each check refuses an ill-formed operation -/

/-- R72: a payload longer than the length field can name. -/
theorem test_wf_refuses_long_payload (bs : List Byte) (h : bs.length = 65536) :
    Instr.wf Config.ref (.frameGps bs) = false ∧ Instr.wf Config.ref (.frameSettings bs) = false ∧
      Instr.wf Config.ref (.frameUnknown 0x7F bs) = false := by
  have h' : payloadOk bs = false := decide_eq_false (by rw [h]; decide)
  simp [Instr.wf, h']

/-- There is such a payload, so the check above refuses something. -/
theorem test_wf_long_payload_exists : (List.replicate 65536 (0 : Byte)).length = 65536 :=
  List.length_replicate

/-- R72, R74: at the bound, and with a tag that is no known one, the operation is well-formed. -/
theorem test_wf_accepts (bs : List Byte) (h : bs.length = 65535) :
    Instr.wf Config.ref (.frameGps bs) = true ∧ Instr.wf Config.ref (.frameUnknown 0x0A bs) = true := by
  have h' : payloadOk bs = true := decide_eq_true (by rw [h]; decide)
  exact ⟨h', by rw [Instr.wf, h']; decide⟩

/-- R74: an unknown frame that carries a known tag, the first and the last. -/
theorem test_wf_refuses_known_tag : Instr.wf Config.ref (.frameUnknown 0x01 []) = false ∧
    Instr.wf Config.ref (.frameUnknown 0x09 []) = false := by decide

/-! ### Decoding: a word for every constructor, written out from 30_encoding.md -/

/-- R71 to R74. -/
theorem test_decode_frames :
    [[0x01, 0x01, 0x00, 0xAA], [0x02, 0x00, 0x00], [0x03, 0x00, 0x00], [0x04, 0x00, 0x00],
      [0x05, 0x01, 0x00, 0x7F], [0x06, 0x00, 0x00], [0x07, 0x00, 0x00], [0x08, 0x00, 0x00],
      [0x09, 0x02, 0x00, 0x11, 0x22], [0x7F, 0x02, 0x00, 0xAA, 0xBB]].map (fun bs => read (.frame bs)) =
    [some (.frameRadio [0xAA]), some (.frameSensors []), some (.frameQuat []), some (.frameComputed []),
      some (.frameMotors [0x7F]), some (.frameTargetQuat []), some (.frameDebug []), some (.frameGps []),
      some (.frameSettings [0x11, 0x22]), some (.frameUnknown 0x7F [0xAA, 0xBB])] := by decide

/-- R72: the length is little-endian, and a frame must be whole and alone. -/
theorem test_decode_frame_length :
    nextFrame [0x01, 0x12, 0x00] = none ∧ nextFrame [0x02, 0x00, 0x01, 0x55] = none ∧
      nextFrame [0x7F, 0x02, 0x00, 0xAA, 0xBB, 0x01, 0x12] = some (⟨0x7F, [0xAA, 0xBB]⟩, [0x01, 0x12]) ∧
      decode Config.ref (.frame [0x05]) = .error .incompleteFrame ∧
      decode Config.ref (.frame [0x05, 0x00, 0x00, 0x01]) = .error .bytesAfterFrame :=
  ⟨by decide, by decide, by decide, rfl, rfl⟩

/-- R80, R81: the sixteen request codes. -/
theorem test_decode_requests :
    [0x00, 0x01, 0x02, 0x03, 0x04, 0x05, 0x06, 0x07].map (fun w => read (.req w)) =
      [some .reqNop, some .reqStartRadioCal, some .reqLeaveView, some (.reqThrAdvance false),
       some .reqThrCancel, some .reqUploadPrefs, some .reqQueryPrefs, some .reqWipePrefs] ∧
    [0x08, 0x09, 0x0A, 0x0B, 0x0C, 0x0D, 0x0E, 0x0F].map (fun w => read (.req w)) =
      [some .reqResetRadio, some .reqRevertGyro, some .reqRevertAccel, some .reqZeroGyro,
       some .reqZeroAccel, some .reqMotorTest, some .reqReservedE, some .reqReservedF] := by decide

/-- R80: bit 4 is `ACK`, bits 7:5 are ignored. -/
theorem test_decode_request_bits :
    read (.req 0b00010011) = some (.reqThrAdvance true) ∧
      read (.req 0b11100011) = some (.reqThrAdvance false) ∧ read (.req 0xFF) = some .reqReservedF := by
  decide

/-- R186, R165: the words of the sub-operations, with what selects them. -/
theorem test_decode_phases :
    [read (.thr .c0 0x13), read (.thr .c1 0x03), read (.thr .c2 0x03), read (.thr .c3 0x03),
      read (.thr .c0 0x04)] =
      [some (.thr0to1 true), some .thr1to2, some .thr2to3, some .thr3to0, none] ∧
    [read (.calPhase .idle), read (.calPhase .reset), read (.calPhase .sampling), read (.calPhase .apply),
      read .heartbeatPhase, read .tick, read (.rx 0xA5)] =
      [some .calIdle, some .calReset, some .calSampling, some .calApply, some .heartbeat, some .tick,
       some (.rxByte 0xA5)] := by decide

/-- R33, R58, R88: port words, field by field. -/
theorem test_decode_ports :
    read (.atan 0x00000003FFFFFFFC) = some (.atan2 3 0xFFFFFFFC) ∧
      read (.mem 0b0_1001_0000000000111111_00000000) = some (.hostMemRead 9 63) ∧
      read (.mem 0b1_0000_0000000001000000_00010010) = some (.hostMemWrite 0 64 0x12) := by decide

/-- R12, R83, R84: the twelve tokens. -/
theorem test_decode_tokens :
    [[0x48, 0x52, 0x54, 0x42], [0x51, 0x50, 0x52, 0x46], [0x55, 0x50, 0x52, 0x46],
      [0x57, 0x50, 0x52, 0x46], [0x52, 0x52, 0x41, 0x44], [0x52, 0x47, 0x59, 0x52],
      [0x52, 0x41, 0x43, 0x43], [0x5A, 0x47, 0x59, 0x52], [0x5A, 0x41, 0x43, 0x43],
      [0x54, 0x43, 0x41, 0x4C], [0xFF], [0x00], [0x48]].map (fun bs => read (.token bs)) =
    [some .tokenHeartbeat, some .tokenQueryPrefs, some .tokenUpdatePrefs, some .tokenWipePrefs,
      some .tokenResetRadio, some .tokenRevertGyro, some .tokenRevertAccel, some .tokenZeroGyro,
      some .tokenZeroAccel, some .tokenThrottleCal, some .tokenThrMax, some .tokenThrEsc, none] := by decide

/-- R85: the upload pattern has one settle gap and eighteen chunks in the reference configuration. -/
theorem test_decode_upload_stream :
    read (.stream (.token .updatePrefs :: .gap .uploadSettle ::
      ((List.replicate 18 [StreamItem.prefChunk, StreamItem.gap .chunk]).flatten ++
        [.token .queryPrefs]))) = some .uploadStream ∧
    read (.stream []) = none := by decide

/-- The table's own words, numbered as it numbers them. -/
theorem test_table_words :
    decodeTableWord 32 0x48525442 = some .tokenHeartbeat ∧ decodeTableWord 8 0x0D = some .reqMotorTest ∧
      decodeTableWord 8 0x09 = some (.frameSettings []) ∧ decodeTableWord 1 1 = some .tick ∧
      decodeTableWord 24 0x90000 = some (.hostMemRead 9 0) ∧
      decodeTableWord 32 0x10004012 = some (.hostMemWrite 0 64 0x12) ∧
      decodeTableWord 64 0x0000000300000004 = some (.atan2 3 4) := by decide

/-- A table word placed first is what the next step runs. -/
theorem test_step_runs_table_word :
    seen State.atanAngle (step (State.reset.withFetchWord 64 0x0000000300000004)) = some 2417 ∧
      seen State.out (step (State.reset.withFetchWord 8 0xFF)) = some (tx [0xFF]) := by decide

/-! ### ATAN2 (95_test_vectors.md section 2) -/

/-- A1, A4, A5, A7. -/
theorem test_atan_axis :
    [angle 0 0, angle 2147483647 0, angle (-1) 0, angle (-2147483648) 0] =
      [some 0, some 0, some 8192, some 8192] := by decide

/-- A8, A9, A19, A21 to A25, A30, A36, A37, A40, A45, A50: every octant, both sides of the prescale, the
domain's corner and the full turn. -/
theorem test_atan_vectors :
    [angle 1 1, angle 0 1, angle 262144 262144, angle 3 4, angle 4 3, angle (-3) 4, angle (-4) (-3),
      angle 3 (-4), angle 1 2, angle 65535 1, angle 65536 1, angle 32768 32768, angle 262144 (-1),
      angle (-254) (-228)] =
    [some 2048, some 4096, some 2048, some 2417, some 1677, some 5773, some 9869, some 13965, some 2888,
      some 0, some 0, some 2048, some 16384, some 10097] := by decide

/-- Section 2.1, iterations 2 and 8 of `atan2 3 4`: the shift of a negative number rounds down. -/
theorem test_atan_trace :
    cordicRun 1 (Config.ref.atanLut.take 2) ⟨28672, 4096, 0⟩ = ⟨33280, -2560, 2281⟩ ∧
      cordicRun 1 (Config.ref.atanLut.take 8) ⟨28672, 4096, 0⟩ = ⟨33725, -105, 1512⟩ := by decide

/-! ### Checksum and upload (95_test_vectors.md section 3) -/

/-- K1, K3, K4, K5, K7, K8. -/
theorem test_cksum :
    [cksum Config.ref [], cksum Config.ref [1, 0, 0, 0], cksum Config.ref (List.replicate 8 0xFF),
      cksum Config.ref (List.replicate 8 0xAB), cksum Config.ref [5, 0, 0, 0, 7, 0, 0, 0],
      cksum Config.ref [6, 0, 0, 0, 6, 0, 0, 0]] =
    [0x55555555, 0x55555556, 0x55555553, 0xACACACAB, 0x55555561, 0x55555561] := by decide

/-- K6, K9: `R1` validates, `R1bad` does not. -/
theorem test_validate :
    recordCksum Config.ref (Memory.ofBytes 72 r1) = 0x45301B33 ∧
      validate Config.ref (Memory.ofBytes 72 r1) = true ∧
      recordCksum Config.ref (Memory.ofBytes 72 r1bad) = 0x452E9C32 ∧
      validate Config.ref (Memory.ofBytes 72 r1bad) = false := by decide

/-- The reset record stamped holds `55 55 55 55` at 68 to 71 (section 3.2). -/
theorem test_stamp_zero : stamp Config.ref [] = [(68, 0x55), (69, 0x55), (70, 0x55), (71, 0x55)] := by decide

/-- R144: token, settle gap, first chunk; 99 events in all (4 + 72 + 4 bytes, 1 + 18 gaps). -/
theorem test_upload :
    seen (fun t => (t.out.take 10, t.out.length, t.pref)) (exec .reqUploadPrefs State.reset) =
      some (tx [0x55, 0x50, 0x52, 0x46] ++ [.gap .uploadSettle] ++ tx [0, 0, 0, 0] ++ [.gap .chunk], 99,
        [(68, 0x55), (69, 0x55), (70, 0x55), (71, 0x55)]) := by decide

/-- R85: the stream alone leaves `PREF`. -/
theorem test_upload_stream :
    seen (fun t => (t.out.length, t.pref)) (exec .uploadStream State.reset) = some (99, []) := by decide

/-- R147 to R153: the worked examples of the seven verbs. -/
theorem test_verbs :
    [Instr.reqQueryPrefs, .reqWipePrefs, .reqResetRadio, .reqRevertGyro, .reqRevertAccel, .reqZeroGyro,
      .reqZeroAccel].map (fun i => seen State.out (exec i State.reset)) =
    [some (tx [0x51, 0x50, 0x52, 0x46]), some (tx [0x57, 0x50, 0x52, 0x46]),
      some (tx [0x52, 0x52, 0x41, 0x44]), some (tx [0x52, 0x47, 0x59, 0x52]),
      some (tx [0x52, 0x41, 0x43, 0x43]), some (tx [0x5A, 0x47, 0x59, 0x52]),
      some (tx [0x5A, 0x41, 0x43, 0x43])] := by decide

/-- R12: the bytes each token row sends. -/
theorem test_tokens :
    [Instr.tokenHeartbeat, .tokenQueryPrefs, .tokenUpdatePrefs, .tokenWipePrefs, .tokenResetRadio,
      .tokenRevertGyro, .tokenRevertAccel, .tokenZeroGyro, .tokenZeroAccel, .tokenThrottleCal, .tokenThrMax,
      .tokenThrEsc].map (fun i => seen State.out (exec i State.reset)) =
    [some (tx [0x48, 0x52, 0x54, 0x42]), some (tx [0x51, 0x50, 0x52, 0x46]),
      some (tx [0x55, 0x50, 0x52, 0x46]), some (tx [0x57, 0x50, 0x52, 0x46]),
      some (tx [0x52, 0x52, 0x41, 0x44]), some (tx [0x52, 0x47, 0x59, 0x52]),
      some (tx [0x52, 0x41, 0x43, 0x43]), some (tx [0x5A, 0x47, 0x59, 0x52]),
      some (tx [0x5A, 0x41, 0x43, 0x43]), some (tx [0x54, 0x43, 0x41, 0x4C]), some (tx [0xFF]),
      some (tx [0x00])] := by decide

/-! ### Framer and dispatcher (95_test_vectors.md section 4) -/

/-- R120: worked example. -/
theorem test_rx_byte :
    seen State.rxq (exec (.rxByte 0x00) { State.reset with rxq := [0x01, 0x12] }) =
      some [0x01, 0x12, 0x00] := by decide

/-- F1, F2, F3: an empty drain and two incomplete frames. -/
theorem test_tick_incomplete :
    seen (fun t => (t.rxq, t.out, t.hbCount)) (exec .tick State.reset) = some ([], [], 1) ∧
      seen State.rxq (exec .tick { State.reset with rxq := [0x01, 0x12, 0x00, 0x0A, 0x00] }) =
        some [0x01, 0x12, 0x00, 0x0A, 0x00] := by decide

/-- F4: the radio layout, through a tick. -/
theorem test_tick_radio :
    seen (fun t => (t.rxq, t.out, channels.map fun c => (t.channel c).toInt, t.batt))
      (exec .tick { State.reset with rxq := [0x01, 0x12, 0x00] ++ radioF4 }) =
    some ([], [.notify (.telemetry .radio)], [10, -20, 30, -40, 50, -60, 70, -80], 1180) := by decide

/-- F7, F8: a payload longer, then shorter than the record. -/
theorem test_frame_radio_sizes :
    seen (fun t => t.record .radio) (exec (.frameRadio (List.replicate 20 0x11)) State.reset) =
      some ((List.range 18).map fun i => (i, 0x11#8)) ∧
    seen (fun t => t.record .radio) (exec (.frameRadio [0xFF, 0xFF]) withRadio) =
      some [(0, 0xFF), (1, 0xFF)] := by decide

/-- F5, F6: a zero-length frame still notifies; a short one is zero-filled. -/
theorem test_frame_computed_motors :
    seen (fun t => (t.record .computed, t.out)) (exec (.frameComputed []) State.reset) =
      some ([], [.notify (.telemetry .computed)]) ∧
    seen (fun t => (t.record .motors, t.out)) (exec (.frameMotors [0x7F]) State.reset) =
      some ([(0, 0x7F)], [.notify (.telemetry .motors)]) := by decide

/-- R128, R129, R132 to R134: the other kinds write their own record only. -/
theorem test_frame_other_kinds :
    [(Instr.frameSensors [7], RecKind.sensors), (.frameQuat [7], .quat), (.frameTargetQuat [7], .targetQuat),
      (.frameDebug [7], .debug), (.frameGps [7], .gps)].map
        (fun p => seen (fun t => (t.record p.2, t.record .radio, t.out)) (exec p.1 State.reset)) =
    [some ([(0, 7)], [], [.notify (.telemetry .sensors)]), some ([(0, 7)], [], [.notify (.telemetry .quat)]),
      some ([(0, 7)], [], [.notify (.telemetry .targetQuat)]),
      some ([(0, 7)], [], [.notify (.telemetry .debug)]), some ([(0, 7)], [], [.notify (.telemetry .gps)])] := by
  decide

/-- P1: `R1` is accepted. -/
theorem test_settings_accepted :
    seen (fun t => (t.pref, t.prefValid, t.out, t.conds)) (exec (.frameSettings r1) State.reset) =
      some (Memory.ofBytes 72 r1, true, [.notify .settings], []) := by decide

/-- P1, S6: `R1bad` is rejected, one re-query before the notification. -/
theorem test_settings_rejected :
    seen (fun t => (t.pref, t.prefValid, t.out, t.conds)) (exec (.frameSettings r1bad) State.reset) =
      some ([], false, tx [0x51, 0x50, 0x52, 0x46] ++ [.notify .settings], [.checksumMismatch]) := by decide

/-- P1, S8: an unknown frame. -/
theorem test_unknown_frame :
    seen (fun t => (t.recs, t.pref, t.out, t.conds)) (exec (.frameUnknown 0x7F [0xAA, 0xBB]) withRadio) =
      some (withRadio.recs, [], withRadio.out, [.unknownMode]) := by decide

/-! ### The host's memory port -/

/-- R66: worked example, and the two ends of the `CAL` view. -/
theorem test_mem_read :
    [seen State.memRdata (exec (.hostMemRead 9 0) State.reset),
      seen State.memRdata (exec (.hostMemRead 9 1) State.reset),
      seen State.memRdata (exec (.hostMemRead 9 3) State.reset),
      seen State.memRdata (exec (.hostMemRead 9 64) State.reset),
      seen State.memRdata (exec (.hostMemRead 1 17) withRadio)] =
    [some 0xFF, some 0x7F, some 0x80, some 0x00, some 0x04] := by decide

/-- R67: worked example, and writes that reach nothing. -/
theorem test_mem_write :
    [seen State.pref (exec (.hostMemWrite 0 64 0x12) State.reset),
      seen State.pref (exec (.hostMemWrite 0 72 0x12) State.reset)] = [some [(64, 0x12)], some []] ∧
    seen State.recs (exec (.hostMemWrite 1 0 0x12) State.reset) = some State.reset.recs := by decide

/-! ### RADIOCAL -/

/-- R166, R168: worked examples. -/
theorem test_cal_start_and_reset :
    seen State.calStep (exec .reqStartRadioCal { State.reset with calStep := .sampling }) = some .reset ∧
    seen (fun t => (t.out, t.calStep, t.calRemaining, t.cal))
      (exec .calReset { State.reset with calStep := .reset }) =
    some (tx [0x52, 0x52, 0x41, 0x44], .sampling, 600, Bank.fill CalSample.cleared) := by decide

/-- R167. -/
theorem test_cal_idle :
    seen (fun t => decide (t = withRadio)) (exec .calIdle withRadio) = some true := by decide

/-- R170: the capture tick takes `start` and nothing else. -/
theorem test_cal_capture :
    seen (fun t => (t.cal.get 1, t.calRemaining))
      (exec .calSampling { withRadio with calStep := .sampling, calRemaining := 550 }) =
    some (⟨0x7FFF, 0x8000, BitVec.ofInt 16 (-20), false⟩, 549) := by decide

/-- R171, R172: a deviation of exactly 30 does not move, 40 does; the last sampling tick goes to Apply. -/
theorem test_cal_sample :
    seen (fun t => ((t.cal.get 2).moved, t.cal.get 3, t.calStep, t.calRemaining))
      (exec .calSampling { withRadio with calStep := .sampling, calRemaining := 1 }) =
    some (false, ⟨BitVec.ofInt 16 (-40), BitVec.ofInt 16 (-40), 0, true⟩, .apply, 0) := by decide

/-- P2, channel 1: a reversed channel of range 1800 gets scale -1165 and center 1000; others stay. -/
theorem test_cal_apply :
    seen (fun t => ((t.pref.word 8).toInt, (t.pref.half 12).toInt, t.pref.word 0, t.calStep,
      validate Config.ref t.pref, t.out.length)) (exec .calApply ready) =
    some (-1165, 1000, 0x400, .idle, true, 99) := by decide

/-- R177: zero range is skipped. -/
theorem test_cal_apply_zero_range :
    seen (fun t => (t.conds, t.pref.word 8))
      (exec .calApply { ready with cal := (Bank.fill CalSample.cleared).set 1 ⟨5, 5, 0, true⟩ }) =
    some ([.degenerateRange 1], 0xFFFFFC00) := by decide

/-- R174, R176: the worked examples. -/
theorem test_cal_arithmetic :
    [roundDiv 2097152 2000, roundDiv 2097152 1, roundDiv 2097152 65535, roundDiv 2097152 1800] =
      [1049, 2097152, 32, 1165] ∧
    [truncDiv2 0, truncDiv2 31, truncDiv2 (-101)] = [0, 15, -50] := by decide

/-- R179: worked example, and nothing without a session. -/
theorem test_leave_view :
    seen (fun t => (t.out, t.calStep, t.thrCycle))
      (exec .reqLeaveView { State.reset with calStep := .reset, thrCycle := .c1 }) =
      some (tx [0x00, 0x52, 0x47, 0x59, 0x52, 0x52, 0x41, 0x43, 0x43], .idle, .c0) ∧
    seen State.out (exec .reqLeaveView State.reset) = some [] := by decide

/-! ### THRCAL (44_throttle_cal.md R193, row by row) -/

/-- Cycle 0. -/
theorem test_thr_advance_0 :
    seen (fun t => (t.out, t.thrCycle)) (exec (.reqThrAdvance false) State.reset) =
      some ([.tx 0x00, .msg .warnProps, .gap .warn, .msg .none], .c0) ∧
    seen (fun t => (t.out, t.thrCycle)) (exec (.reqThrAdvance true) State.reset) =
      some (tx [0x54, 0x43, 0x41, 0x4C], .c1) := by decide

/-- Cycle 1, with battery 0 and 1180. -/
theorem test_thr_1to2 :
    seen (fun t => (t.out, t.thrCycle)) (exec .thr1to2 { State.reset with thrCycle := .c1 }) =
      some ([.tx 0xFF], .c2) ∧
    seen (fun t => (t.out.drop 1, t.thrCycle)) (exec .thr1to2 { withRadio with thrCycle := .c1 }) =
      some ([.tx 0x00, .msg .warnBattery, .gap .warn, .msg .none], .c0) := by decide

/-- Cycles 2 and 3, and the first transition under its own name. -/
theorem test_thr_rest :
    seen (fun t => (t.out, t.thrCycle)) (exec .thr2to3 { State.reset with thrCycle := .c2 }) =
      some ([.tx 0x00], .c3) ∧
    seen (fun t => (t.out, t.thrCycle)) (exec .thr3to0 { State.reset with thrCycle := .c3 }) =
      some ([.tx 0x00, .msg .thrFinal, .gap .thrFinal, .msg .none], .c0) ∧
    seen State.thrCycle (exec (.thr0to1 true) State.reset) = some .c1 := by decide

/-- R191: from cycle 2 and from cycle 0. -/
theorem test_thr_cancel :
    seen (fun t => (t.out, t.thrCycle)) (exec .reqThrCancel { State.reset with thrCycle := .c2 }) =
      some ([.tx 0x00], .c0) ∧
    seen (fun t => (t.out, t.thrCycle)) (exec .reqThrCancel State.reset) = some ([.tx 0x00], .c0) := by decide

/-! ### The tick loop -/

/-- R201: the twentieth tick. -/
theorem test_heartbeat :
    seen (fun t => (t.out, t.hbCount)) (exec .heartbeat { State.reset with hbCount := 19 }) =
      some (tx [0x48, 0x52, 0x54, 0x42], 0) ∧
    seen (fun t => (t.out, t.hbCount)) (exec .heartbeat { State.reset with hbCount := 18 }) =
      some ([], 19) := by decide

/-- R203, R209: nothing, but for the trace of conditions. -/
theorem test_nop_and_reserved :
    seen (fun t => decide (t = withRadio)) (exec .reqNop withRadio) = some true ∧
    [Instr.reqMotorTest, .reqReservedE, .reqReservedF].map
      (fun i => seen (fun t => decide (t = { withRadio with conds := [.reservedRequest] })) (exec i withRadio)) =
    [some true, some true, some true] := by decide

/-- R34, R35: the status port of a state in session. -/
theorem test_status_port :
    State.statusPort { State.reset with prefValid := true, thrCycle := .c2, calStep := .apply } =
      0b00011011 := by decide

/-- R240, R241: the reset event, after a settings frame was accepted. -/
theorem test_reset_event :
    seen (fun t => (t.pref, t.prefValid, t.out))
      (step { settingsFrame r1 State.reset with pending := [.reset] }) = some ([], false, []) := by decide

/-! ### Witnesses: the hypotheses of each statement can be met together -/

theorem test_witness_ZeroRecordDoesNotValidate : Config.ref.ckSeed ≠ 0#32 := by decide

/-- No event yet, and each of the two ways an event bears on `MSG`. -/
theorem test_witness_StatusPortShowsTheSequencers :
    State.reset.out = [] ∧ State.msgPort { State.reset with out := [.msg .thrFinal, .tx 0x00] } = .thrFinal := by
  decide

theorem test_witness_ResetEventRestoresReset :
    ({ withRadio with pending := [.reset] } : State).pending = .reset :: [] := rfl

theorem test_witness_StepRunsTheDecodedOperation :
    ({ withRadio with pending := [.strobe (.req 0x13)] } : State).pending = .strobe (.req 0x13) :: [] ∧
      decode withRadio.cfg (.req 0x13) = .ok (.reqThrAdvance true) ∧ withRadio.pending = [] ∧
      decode withRadio.cfg (tableWord 8 0x1D) = .ok .reqMotorTest := ⟨rfl, rfl, rfl, rfl⟩

theorem test_witness_EnvironmentNeverStopsTheBlock :
    ({ withRadio with pending := [.strobe (.rx 0xFF), .strobe .tick, .reset, .strobe (.req 0x0F)] } :
      State).ScriptOk := by decide

theorem test_witness_DecodeOfEncodeIsTheOperation :
    Config.ref.modes.toList.Nodup ∧ Config.ref.TokensDistinct ∧
      Instr.wf Config.ref (.frameUnknown 0x7F [0xAA]) = true ∧ Instr.wf Config.ref (.frameGps []) = true ∧
      Instr.wf Config.ref (.hostMemWrite 15 0xFFFF 0xFF) = true := by decide

theorem test_witness_EveryExternalWordDecodes :
    [OpWord.atan 0, .rx 0xFF, .tick, .mem 0x1FFFFFFF, .req 0xFF].all OpWord.external = true := by decide

theorem test_witness_RequestReadsOnlyItsFields :
    bitField 0xE3#8 0 5 = bitField 0x03#8 0 5 ∧ bitField 0x1D#8 0 4 = bitField 0x0D#8 0 4 ∧
      bitField 0x1D#8 0 4 ≠ 3#4 := by decide

/-- Both sides of `FrameIsHeaderThenPayload`: an empty and a non-empty payload. -/
theorem test_witness_FrameIsHeaderThenPayload :
    nextFrame [0x00, 0x00, 0x00] = some (⟨0x00, []⟩, []) ∧
      nextFrame [0x7F, 0x02, 0x00, 0xAA, 0xBB, 0x01] = some (⟨0x7F, [0xAA, 0xBB]⟩, [0x01]) := by decide

/-- `NEXT_PACKET` with a frame and a byte more queued, and without a whole frame. -/
theorem test_witness_nextPacket :
    nextPacket { State.reset with rxq := [0x07, 0x01, 0x00, 0xAA, 0x01] } =
      some (⟨0x07, [0xAA]⟩, { State.reset with rxq := [0x01] }) ∧
    nextPacket { State.reset with rxq := [0x07, 0x01, 0x00] } = none := by decide

/-- `DrainIsTheLoopOfItsRule`: the packet above; the nine tags differ, each is some packet's mode, and the modes
beside the first and the last are unknown. -/
theorem test_witness_DrainIsTheLoopOfItsRule :
    State.reset.cfg.modes.toList.Nodup ∧
      State.reset.cfg.modes.toList = [0x01, 0x02, 0x03, 0x04, 0x05, 0x06, 0x07, 0x08, 0x09] ∧
      0x00#8 ∉ State.reset.cfg.modes.toList ∧ 0x0A#8 ∉ State.reset.cfg.modes.toList := by decide

/-- R124: a DEBUG packet drained in a tick is stored in the DEBUG record, in no other. -/
theorem test_dispatch_debug :
    seen (fun t => (t.record .debug, t.record .gps, t.out))
      (exec .tick { State.reset with rxq := [0x07, 0x01, 0x00, 0xAA] }) =
      some ([(0, 0xAA)], [], [.notify (.telemetry .debug)]) := by decide

/-- Another record than the one written. -/
theorem test_witness_TelemetryFrameReplacesItsRecord : RecKind.sensors ≠ RecKind.radio := by decide

/-- A payload that validates and one that does not. -/
theorem test_witness_SettingsFrameIsChecksumGated :
    validate Config.ref (stage Config.ref r1) = true ∧ validate Config.ref (stage Config.ref []) = false := by
  decide

theorem test_witness_StampedRecordValidates :
    Config.ref.PrefOk ∧ Memory.wf (Memory.ofBytes 72 r1) := ⟨by decide, Memory.wf_ofBytes 72 r1⟩

/-- The first and last byte of the body and of the checksum field. -/
theorem test_witness_SingleByteChangeIsDetected :
    Config.ref.PrefOk ∧ Memory.wf (Memory.ofBytes 72 r1) ∧ validate Config.ref (Memory.ofBytes 72 r1) = true ∧
      ∀ a ∈ [0, 67, 68, 71], a < Config.ref.prefSize ∧ 0x01#8 ≠ (Memory.ofBytes 72 r1).read a :=
  ⟨by decide, Memory.wf_ofBytes 72 r1, by decide, by decide⟩

/-- For `UploadStampsThenSends` and `UploadStreamCarriesTheRecord`; the edges of the bytes that stay. -/
theorem test_witness_UploadStampsThenSends :
    ready.cfg.PrefOk ∧ ready.pref.wf ∧ 67 < ready.cfg.prefSize - 4 ∧ ready.cfg.prefSize ≤ 72 :=
  ⟨by decide, Memory.wf_ofBytes 72 r1, by decide, by decide⟩

theorem test_witness_UploadStreamCarriesTheRecord : ready.cfg.PrefOk := by decide

/-- Space codes 0, 1, 8, 9 and 10, and offsets 0, 63 and 64 of the `CAL` view. -/
theorem test_witness_HostReadAnswersTheByte :
    (1 : BitVec 4).toNat = RecKind.radio.idx.val + 1 ∧ (8 : BitVec 4).toNat = RecKind.gps.idx.val + 1 ∧
      (0 : Half).toNat = 8 * (0 : Fin 8).val + 0 ∧ (63 : Half).toNat = 8 * (7 : Fin 8).val + 7 ∧
      64 ≤ (64 : Half).toNat ∧ 10 ≤ (10 : BitVec 4).toNat := by decide

/-- The last offset inside `PREF`, the first one outside, and another space. -/
theorem test_witness_HostWriteReachesOnlyPref :
    (71 : Half).toNat < ready.cfg.prefSize ∧ ready.pref.wf ∧ ready.cfg.prefSize ≤ (72 : Half).toNat ∧
      (1 : BitVec 4) ≠ 0 := ⟨by decide, Memory.wf_ofBytes 72 r1, by decide, by decide⟩

/-- No session, a radio session only, a throttle session. -/
theorem test_witness_LeaveViewCancelsSessions :
    (State.reset.calStep = .idle ∧ State.reset.thrCycle = .c0) ∧
      (ready.calStep ≠ .idle ∧ ready.thrCycle = .c0) ∧
      ({ State.reset with thrCycle := .c1 } : State).thrCycle ≠ .c0 := by decide

theorem test_witness_IdleTickDoesNothing : withRadio.calStep = .idle := by decide

theorem test_witness_ResetTickClearsTheSamples :
    ({ withRadio with calStep := .reset } : State).calStep = .reset ∧ withRadio.cfg.CalOk := by decide

/-- Above, at and below the capture tick, and the last tick. -/
theorem test_witness_SamplingTickFollowsTheCountdown :
    (∀ r : Word, ({ withRadio with calStep := .sampling, calRemaining := r } : State).calStep = .sampling ∧
      ({ withRadio with calStep := .sampling, calRemaining := r } : State).calRemaining = r) ∧
      ∀ r ∈ [600#32, 551#32, 550#32, 549#32, 1#32], 1 ≤ r.toNat := ⟨fun _ => ⟨rfl, rfl⟩, by simp⟩

/-- A moved channel, and offsets of channel 0 and of the opaque bytes that stay. -/
theorem test_witness_ApplyTickWritesMovedChannels :
    ready.calStep = .apply ∧ ready.cfg.PrefOk ∧ ready.pref.wf ∧ (ready.cal.get 1).updates ∧
      ∀ a ∈ [7, 14, 67], a < ready.cfg.prefSize - 4 ∧
        (a < ready.cfg.scaleOff.get 1 ∨ ready.cfg.scaleOff.get 1 + 4 ≤ a) ∧
        (a < ready.cfg.centerOff.get 1 ∨ ready.cfg.centerOff.get 1 + 2 ≤ a) :=
  ⟨by decide, by decide, Memory.wf_ofBytes 72 r1, by decide, by decide⟩

/-- The other seven channels of `ready` are not updated. -/
theorem test_witness_ApplyTick_other_channels :
    ∀ ch, (ready.cal.get ch).updates → ch = 1 := by decide

/-- A reversed and a zero stored scale, and the smallest and largest range. -/
theorem test_witness_NewScaleKeepsTheSign :
    Config.ref.scaleNum = 2097152 ∧ wide.min.toInt < wide.max.toInt ∧ (0xFFFFFC00 : Word).toInt < 0 ∧
      0 ≤ (0 : Word).toInt ∧ (⟨4, 5, 0, true⟩ : CalSample).range = 1 ∧
      (⟨0x8000, 0x7FFF, 0, true⟩ : CalSample).range = 65535 := by decide

theorem test_witness_RoundDivIsNearestHalfUp : (0 : Int) < 1 ∧ (0 : Int) < 2 ∧ roundDiv 1 2 = 1 := by decide

/-- Each of the two names of the first transition. -/
theorem test_witness_ThrottleStartNeedsAcknowledgment :
    State.reset.thrCycle = .c0 ∧ (Instr.reqThrAdvance = .reqThrAdvance ∨ Instr.reqThrAdvance = .thr0to1) ∧
      (Instr.thr0to1 = .reqThrAdvance ∨ Instr.thr0to1 = .thr0to1) := ⟨rfl, .inl rfl, .inr rfl⟩

/-- Battery 0, 1 and 1180. -/
theorem test_witness_ThrottleMaxNeedsZeroBattery :
    ({ State.reset with thrCycle := .c1 } : State).thrCycle = .c1 ∧
      le16Of ((State.reset.record .radio).read 16) ((State.reset.record .radio).read 17) = 0#16 ∧
      le16Of ((withRadio.record .radio).read 16) ((withRadio.record .radio).read 17) ≠ 0#16 ∧
      le16Of 1#8 0#8 ≠ 0#16 := by decide

theorem test_witness_ThrottleMinNeedsNothing :
    ({ withRadio with thrCycle := .c2 } : State).thrCycle = .c2 := rfl

theorem test_witness_ThrottleFinishShowsInstructions :
    ({ withRadio with thrCycle := .c3 } : State).thrCycle = .c3 := rfl

theorem test_witness_UnselectedRowsDoNothing :
    ready.calStep ≠ .reset ∧ ready.calStep ≠ .sampling ∧ State.reset.calStep ≠ .apply ∧
      ({ ready with thrCycle := .c1 } : State).thrCycle ≠ .c0 ∧ ready.thrCycle ≠ .c1 ∧
      ready.thrCycle ≠ .c2 ∧ ready.thrCycle ≠ .c3 := by decide

theorem test_witness_TickSamplesTheFreshestFrame :
    let s : State := { State.reset with
      calStep := .sampling, calRemaining := 550, rxq := 0x01 :: 0x12 :: 0x00 :: radioF4 }
    s.calStep = .sampling ∧ 1 ≤ s.calRemaining.toNat ∧ s.calRemaining.toNat = s.cfg.captureAt ∧
      s.cfg.recSize.c0 = 18 ∧ radioF4.length = 18 ∧
      s.rxq = s.cfg.modes.radio :: 0x12#8 :: 0x00#8 :: radioF4 := by decide

/-- For every statement about `exec i s = .next t` as a hypothesis: a state, an operation and the next state. -/
theorem test_witness_next :
    exec .tick State.reset = .next (tickAll State.reset) ∧
      exec (.frameSettings r1) State.reset = .next (settingsFrame r1 State.reset) ∧
      exec (decodeReq 0x05) ready = .next (upload ready) ∧ ready.pref.wf :=
  ⟨rfl, rfl, rfl, Memory.wf_ofBytes 72 r1⟩

/-- One below and at the heartbeat period. -/
theorem test_witness_HeartbeatOnEveryPeriod :
    State.reset.cfg.HeartbeatOk ∧ (19 : Half).toNat < 20 ∧ (19 : Half).toNat + 1 = 20 ∧
      (18 : Half).toNat + 1 < 20 := by decide

/-- Each clause of `ConditionsAreTraced` that has a hypothesis on the state. -/
theorem test_witness_ConditionsAreTraced :
    State.reset.thrCycle = .c0 ∧ ({ withRadio with thrCycle := .c1 } : State).thrCycle = .c1 ∧
      withRadio.batt ≠ 0#16 ∧ ready.calStep = .apply := by decide

/-- The bounds of the domain and just outside, on each operand; both signs of `x` on the axis. -/
theorem test_witness_Atan :
    (0 ≤ (0 : Word).toInt ∧ (0xFFFFFFFF : Word).toInt < 0) ∧
      ((1 : Word).toInt ≠ 0 ∧ AtanDomain Config.ref 262144 262144 ∧
        AtanDomain Config.ref (BitVec.ofInt 32 (-262144)) (BitVec.ofInt 32 (-262144))) ∧
      ¬AtanDomain Config.ref 262145 1 ∧ ¬AtanDomain Config.ref 1 (BitVec.ofInt 32 (-262145)) := by decide

/-- R104: a reduced `x` below the limit, at it, and the multiplication (corner cases 65535 and 65536). -/
theorem test_witness_prescale :
    octantReduce 65535 1 = ⟨65535, 1, 0⟩ ∧ octantReduce 65536 1 = ⟨65536, 1, 0⟩ ∧
      prescale Config.ref ⟨65535, 1, 0⟩ = ⟨268431360, 4096, 0⟩ ∧
      prescale Config.ref ⟨65536, 1, 0⟩ = ⟨65536, 1, 0⟩ := by decide

/-- R106: both signs of `y`, the zero among them, and the first and last entry of the table. -/
theorem test_witness_iterations :
    cordicStep 1 4836 ⟨28672, 4096, 0⟩ = ⟨30720, -10240, 4836⟩ ∧
      cordicStep 2 2555 ⟨30720, -10240, 4836⟩ = ⟨33280, -2560, 2281⟩ ∧
      cordicStep 1 4836 ⟨8192, 0, 0⟩ = ⟨8192, -4096, 4836⟩ ∧
      Config.ref.atanLut[0]? = some 4836 ∧ Config.ref.atanLut[10]? = some 5 := by decide

/-- R102: the worked example and the corner cases, with every transform taken and not taken; `y = -1` and `y = 1`. -/
theorem test_witness_OctantReduction :
    octantReduce 3 (-4) = ⟨4, 3, 6⟩ ∧ octantReduce 0 1 = ⟨1, 0, 2⟩ ∧ octantReduce 1 1 = ⟨2, 0, 1⟩ ∧
      octantReduce 2 1 = ⟨2, 1, 0⟩ ∧ octantReduce 2 (-1) = ⟨3, 1, 7⟩ ∧ octantReduce (-1) (-1) = ⟨2, 0, 5⟩ := by
  decide

theorem test_witness_AtanIntegers :
    (1 : Int) ≠ 0 ∧ |(-262144 : Int)| ≤ 262144 ∧ |(262144 : Int)| ≤ 262144 ∧
      (octantReduce 262144 262144).x = 2 * 262144 := by decide

theorem test_witness_ResetMeetsTheInvariant : Config.ref.Valid := by decide

/-- A state in the middle of a session, and its next step. -/
theorem test_witness_EveryStepKeepsTheInvariant :
    lastSample.Inv ∧ step lastSample = .next (tickAll { lastSample with pending := [] }) := 
  ⟨⟨by decide, by decide, by decide, by decide, by decide, by decide⟩, rfl⟩

end Sys2Proof.Tests
end

section
/-! SUPPORT. Every operation completes and no script the environment can write stops the block
(00_scope.md R17). -/

namespace Sys2Proof.Machine

/-! ### The operations -/

/-- An `ATAN2` query drives an angle, the rules' or a free one (40_atan2.md R100, R111). -/
theorem exists_next_execAtan2 (x y : Word) (s : State) : ∃ t, execAtan2 x y s = .next t := by
  rw [execAtan2]
  cases atanResult s.cfg x y with
  | some a => exact ⟨_, rfl⟩
  | none => exact ⟨_, rfl⟩

/-- Settles O5, by cases on the operation: only `ATAN2` chooses between two outcomes, and both go on; every
other meaning is written as the outcome `next` of one state. -/
theorem everyOperationCompletes : Obligations.EveryOperationCompletes := by
  intro i s
  cases i with
  | atan2 x y => exact exists_next_execAtan2 x y s
  | _ => exact ⟨_, rfl⟩

/-! ### The words of the environment -/

/-- The five external kinds of word have no decoding error (30_encoding.md R89). -/
theorem exists_decode_of_external (c : Config) {w : OpWord} (h : w.external = true) :
    ∃ i, decode c w = .ok i := by
  cases w with
  | atan _ | rx _ | tick | mem _ | req _ => exact ⟨_, rfl⟩
  | frame _ | thr _ _ | calPhase _ | heartbeatPhase | token _ | stream _ => simp [OpWord.external] at h

/-! ### One step, by the head of the script -/

/-- Without an event the block holds its state (60_exceptions.md R232). -/
theorem step_of_pending_nil {s : State} (h : s.pending = []) : step s = .next s := by
  simp only [step, fetchEvent, h]

theorem step_of_pending_reset {s : State} {rest : List Event} (h : s.pending = .reset :: rest) :
    step s = .next (applyReset { s with pending := rest }) := by
  simp only [step, fetchEvent, h]

/-- A strobe runs the operation its word decodes to (45_tick_loop.md R204). -/
theorem step_of_pending_strobe {s : State} {w : OpWord} {rest : List Event} {i : Instr}
    (h : s.pending = .strobe w :: rest) (hd : decode s.cfg w = .ok i) :
    step s = exec i { s with pending := rest } := by
  simp only [step, fetchEvent, h, hd]

/-- The first event of a script the environment can write is one it can cause. -/
theorem external_of_pending_cons {s : State} {e : Event} {rest : List Event} (hs : s.ScriptOk)
    (h : s.pending = e :: rest) : e.external = true :=
  hs e (h ▸ List.mem_cons_self)

/-- Settles O6, by cases on the head of the script: a strobe's word is external, so it decodes, and the
operation it decodes to completes. -/
theorem environmentNeverStopsTheBlock : Obligations.EnvironmentNeverStopsTheBlock := by
  intro s hs
  cases hp : s.pending with
  | nil => exact ⟨s, step_of_pending_nil hp⟩
  | cons e rest =>
    cases e with
    | reset => exact ⟨_, step_of_pending_reset hp⟩
    | strobe w =>
      obtain ⟨i, hd⟩ := exists_decode_of_external s.cfg (external_of_pending_cons hs hp)
      rw [step_of_pending_strobe hp hd]
      exact everyOperationCompletes i _

end Sys2Proof.Machine
end

section
/-! SUPPORT. The state at reset (10_state.md R40), the coded output ports (R34, R35), and what every operation
keeps: the configuration, the script, `pref_valid` and the trace already emitted (R26, R36, R38). -/

namespace Sys2Proof.Machine

/-! ### The reset state -/

@[simp] theorem State.record_resetWith (c : Config) (k : RecKind) : (State.resetWith c).record k = [] :=
  Bank.get_fill [] k.idx

@[simp] theorem State.cal_resetWith (c : Config) (ch : Fin 8) :
    (State.resetWith c).cal.get ch = CalSample.cleared := Bank.get_fill CalSample.cleared ch

theorem le16Of_zero : le16Of 0#8 0#8 = 0#16 := by decide

theorem le32Of_zero : le32Of 0#8 0#8 0#8 0#8 = 0#32 := by decide

/-- A 16-bit field of a space with no byte listed (R40). -/
@[simp] theorem Memory.half_nil (a : Nat) : Memory.half [] a = 0#16 := le16Of_zero

/-- A 32-bit field of a space with no byte listed (R40). -/
@[simp] theorem Memory.word_nil (a : Nat) : Memory.word [] a = 0#32 := le32Of_zero

theorem Memory.below_nil (size : Nat) : Memory.below [] size := by simp [Memory.below]

/-- The values of R40 for one sample, as the signed numbers the table writes. -/
theorem CalSample.cleared_values :
    CalSample.cleared.min.toInt = 32767 ∧ CalSample.cleared.max.toInt = -32768 ∧
      CalSample.cleared.start = 0#16 ∧ CalSample.cleared.moved = false := by decide

theorem State.statusPort_resetWith (c : Config) : (State.resetWith c).statusPort = 0x00#8 := by
  have hfields : 0#3 ++ 0#1 ++ ThrCycle.c0.code ++ CalStep.idle.code = 0x00#8 := by decide
  exact hfields

/-- Settles O1: every record and `PREF` list no byte, every sample is the cleared one, and each other element is
its literal of R40. -/
theorem resetGivesEveryElementItsValue : Obligations.ResetGivesEveryElementItsValue := by
  refine ⟨rfl, fun c => ⟨rfl, fun k a => ?records, fun ch => ?channels, ?battery, Memory.read_nil, rfl, rfl, rfl,
    fun ch => ?samples, rfl, rfl, rfl, rfl, State.statusPort_resetWith c⟩⟩
  case records => rw [State.record_resetWith, Memory.read_nil]
  case channels => rw [State.channel, State.record_resetWith, Memory.half_nil]
  case battery => rw [State.batt, State.record_resetWith, Memory.half_nil]
  case samples => simpa only [State.cal_resetWith] using CalSample.cleared_values

/-! ### The invariant at reset -/

theorem State.spacesOk_resetWith (c : Config) : (State.resetWith c).SpacesOk := by
  refine ⟨Memory.wf_nil, Memory.below_nil _, fun i _ => ?_⟩
  have hrec : (State.resetWith c).recs.get i = [] := Bank.get_fill [] i
  rw [hrec]
  exact ⟨Memory.wf_nil, Memory.below_nil _⟩

/-- The sequencer is at Idle with countdown 0. -/
theorem State.countdownOk_resetWith (c : Config) : (State.resetWith c).CountdownOk :=
  ⟨Nat.zero_le _, nofun, nofun⟩

/-- No channel has moved. -/
theorem State.samplesOk_resetWith (c : Config) : (State.resetWith c).SamplesOk := by
  intro ch _ hmoved
  simp [CalSample.cleared] at hmoved

theorem State.inv_resetWith {c : Config} (h : c.Valid) : (State.resetWith c).Inv := by
  have hperiod : 0 < c.heartbeatPeriod := by
    obtain ⟨-, -, -, -, -, -, hpos, -⟩ := h
    exact hpos
  exact ⟨h, State.spacesOk_resetWith c, State.countdownOk_resetWith c, State.samplesOk_resetWith c, hperiod, rfl⟩

/-- `CFG_REF` meets every constraint of 00_scope.md section 5. -/
theorem valid_configRef : Config.ref.Valid := by decide

/-- Settles O59, one lemma for each part of the invariant. -/
theorem resetMeetsTheInvariant : Obligations.ResetMeetsTheInvariant :=
  ⟨fun _ h => State.inv_resetWith h, State.inv_resetWith valid_configRef⟩

/-! ### The coded output ports -/

/-- The four fields of a `STATUS` byte put together as R34 puts it together. -/
theorem bitField_status (v : BitVec 1) (t k : BitVec 2) :
    bitField (0#3 ++ v ++ t ++ k) 0 2 = k ∧ bitField (0#3 ++ v ++ t ++ k) 2 2 = t ∧
      bitField (0#3 ++ v ++ t ++ k) 4 1 = v ∧ bitField (0#3 ++ v ++ t ++ k) 5 3 = 0#3 := by
  revert v t k
  decide

theorem State.statusPort_fields (s : State) :
    bitField s.statusPort 0 2 = s.calStep.code ∧ bitField s.statusPort 2 2 = s.thrCycle.code ∧
      bitField s.statusPort 4 1 = (if s.prefValid then 1#1 else 0#1) ∧ bitField s.statusPort 5 3 = 0#3 :=
  bitField_status _ _ _

/-- The message after one more event (R35). -/
theorem State.msgPort_append (s : State) (e : OutEvent) :
    State.msgPort { s with out := s.out ++ [e] } = msgAfter s.msgPort e := by
  simp [State.msgPort, List.foldl_append]

/-- Settles O2: the fields of `STATUS` by `statusPort_fields`, the `MSG` port by `msgPort_append`, and the codes
value by value. -/
theorem statusPortShowsTheSequencers : Obligations.StatusPortShowsTheSequencers := by
  intro s
  obtain ⟨hcal, hthr, hvalid, hzero⟩ := s.statusPort_fields
  refine ⟨?cal, ?thr, ?valid, hzero, rfl, fun hout => ?rest, fun e => ?msg, ?codes⟩
  case cal => rw [hcal]; cases s.calStep <;> rfl
  case thr => rw [hthr]; cases s.thrCycle <;> rfl
  case valid => rw [hvalid]; cases s.prefValid <;> decide
  case rest => rw [State.msgPort, hout, List.foldl_nil]
  case msg => rw [State.msgPort_append]; cases e <;> rfl
  case codes => decide

/-! ### The zero record -/

/-- Zero bytes leave the running sum (42_checksum_prefs.md R140). -/
theorem cksumFrom_of_zeros (acc : Word) (bs : List Byte) (h : ∀ b ∈ bs, b = 0#8) : cksumFrom acc bs = acc := by
  induction acc, bs using cksumFrom.induct with
  | case1 acc b0 b1 b2 b3 rest ih =>
    have hword : le32Of b0 b1 b2 b3 = 0#32 := by
      rw [h b0 (by simp), h b1 (by simp), h b2 (by simp), h b3 (by simp), le32Of_zero]
    have hrest : ∀ b ∈ rest, b = 0#8 := fun b hb => h b (by simp [hb])
    rw [cksumFrom, ih hrest, hword, BitVec.add_zero]
  | case2 acc bs hshort => rw [cksumFrom]; exact hshort

theorem recordCksum_nil (c : Config) : recordCksum c [] = c.ckSeed := by
  refine cksumFrom_of_zeros c.ckSeed _ fun b hb => ?_
  obtain ⟨i, -, rfl⟩ := List.mem_map.mp hb
  exact Memory.read_nil _

/-- Settles O20: the stored checksum is the word 0, the computed one the bare seed, so they agree only where the
seed is 0. -/
theorem zeroRecordDoesNotValidate : Obligations.ZeroRecordDoesNotValidate := by
  intro c
  have hstored : prefChecksum c [] = 0#32 := Memory.word_nil _
  refine ⟨hstored, recordCksum_nil c, fun hseed => ?_⟩
  rw [validate, hstored, recordCksum_nil]
  exact decide_eq_false hseed

/-! ### What every operation keeps -/

/-- `t` may follow `s` in a run without reset: the configuration and the script are those of `s` (R38), `pref_valid`
is not cleared (R26), and `OUT` begins with what `s` had emitted (R36). -/
structure Continues (s t : State) : Prop where
  cfg : t.cfg = s.cfg
  pending : t.pending = s.pending
  prefValid : s.prefValid = true → t.prefValid = true
  out : s.out <+: t.out

theorem Continues.refl (s : State) : Continues s s := ⟨rfl, rfl, id, List.prefix_rfl⟩

theorem Continues.trans {s t u : State} (h : Continues s t) (h' : Continues t u) : Continues s u :=
  ⟨h'.cfg.trans h.cfg, h'.pending.trans h.pending, h'.prefValid ∘ h.prefValid, h.out.trans h'.out⟩

/-- An operation that does nothing where it is not selected. -/
theorem Continues.ite {s t : State} (p : Prop) [Decidable p] (h : Continues s t) :
    Continues s (if p then t else s) := by
  split
  · exact h
  · exact .refl s

theorem continues_emit (s : State) (es : List OutEvent) : Continues s (s.emit es) :=
  ⟨rfl, rfl, id, List.prefix_append _ _⟩

theorem continues_sendToken (s : State) (t : Token) : Continues s (s.sendToken t) := continues_emit s _

theorem continues_takeCondition (c : Condition) (s : State) : Continues s (takeCondition c s) := by
  rw [takeCondition_eq]
  exact ⟨rfl, rfl, id, List.prefix_append _ _⟩

/-! The framer and the tick. -/

theorem continues_decodeRec (k : RecKind) (payload : List Byte) (s : State) :
    Continues s (decodeRec k payload s) := ⟨rfl, rfl, id, List.prefix_append _ _⟩

/-- The one operation that writes `pref_valid`, and it sets it (41_framer_dispatch.md R135). -/
theorem continues_settingsFrame (payload : List Byte) (s : State) : Continues s (settingsFrame payload s) := by
  rw [settingsFrame_eq]
  split
  · exact ⟨rfl, rfl, fun _ => rfl, List.prefix_append _ _⟩
  · exact ⟨rfl, rfl, id, List.prefix_append _ _⟩

theorem continues_dispatch (p : Packet) (s : State) : Continues s (dispatch p s) := by
  obtain ⟨k, -, e⟩ | ⟨-, e⟩ | ⟨-, e⟩ := dispatch_cases p s <;> rw [e]
  · exact continues_decodeRec k p.payload s
  · exact continues_settingsFrame p.payload s
  · exact continues_takeCondition .unknownMode s

theorem continues_drain (s : State) : Continues s (drain s) := by
  refine drain_induction (P := Continues s) (.refl s) fun u p rest hu _ => ?_
  have hqueue : Continues u { u with rxq := rest } := ⟨rfl, rfl, id, List.prefix_rfl⟩
  exact (hu.trans hqueue).trans (continues_dispatch p _)

theorem continues_upload (s : State) : Continues s (upload s) := ⟨rfl, rfl, id, List.prefix_append _ _⟩

theorem continues_calResetTick (s : State) : Continues s (calResetTick s) :=
  ⟨rfl, rfl, id, List.prefix_append _ _⟩

theorem continues_calSamplingTick (s : State) : Continues s (calSamplingTick s) := by
  rw [calSamplingTick_eq]
  exact ⟨rfl, rfl, id, List.prefix_rfl⟩

theorem continues_calApplyTick (s : State) : Continues s (calApplyTick s) := by
  rw [calApplyTick_eq]
  exact ⟨rfl, rfl, id, List.prefix_append _ _⟩

theorem continues_calTick (s : State) : Continues s (calTick s) := by
  rw [calTick]
  cases s.calStep with
  | idle => exact .refl s
  | reset => exact continues_calResetTick s
  | sampling => exact continues_calSamplingTick s
  | apply => exact continues_calApplyTick s

theorem continues_beat (s : State) : Continues s (beat s) := by
  obtain ⟨-, e⟩ | ⟨-, e⟩ := beat_cases s <;> rw [e]
  · exact ⟨rfl, rfl, id, List.prefix_append _ _⟩
  · exact ⟨rfl, rfl, id, List.prefix_rfl⟩

theorem continues_tickAll (s : State) : Continues s (tickAll s) :=
  ((continues_drain s).trans (continues_calTick _)).trans (continues_beat _)

/-! The throttle sequencer. -/

theorem continues_thrStart (ack : Bool) (s : State) : Continues s (thrStart ack s) := by
  rw [thrStart_eq]
  split <;> exact ⟨rfl, rfl, id, List.prefix_append _ _⟩

theorem continues_thrMaxThrottle (s : State) : Continues s (thrMaxThrottle s) := by
  rw [thrMaxThrottle_eq]
  split <;> exact ⟨rfl, rfl, id, List.prefix_append _ _⟩

theorem continues_thrMinThrottle (s : State) : Continues s (thrMinThrottle s) :=
  ⟨rfl, rfl, id, List.prefix_append _ _⟩

theorem continues_thrFinish (s : State) : Continues s (thrFinish s) := by
  rw [thrFinish, State.sendToken, State.emit_emit]
  exact ⟨rfl, rfl, id, List.prefix_append _ _⟩

theorem continues_thrAdvance (ack : Bool) (s : State) : Continues s (thrAdvance ack s) := by
  rw [thrAdvance]
  cases s.thrCycle with
  | c0 => exact continues_thrStart ack s
  | c1 => exact continues_thrMaxThrottle s
  | c2 => exact continues_thrMinThrottle s
  | c3 => exact continues_thrFinish s

/-! The other operations. -/

theorem continues_leaveView (s : State) : Continues s (leaveView s) := by
  rw [leaveView_eq]
  split
  · exact .refl s
  · exact ⟨rfl, rfl, id, List.prefix_append _ _⟩

/-- Both outcomes of an `ATAN2` query write its port and the model's own counter at most. -/
theorem exists_continues_execAtan2 (x y : Word) (s : State) : ∃ t, execAtan2 x y s = .next t ∧ Continues s t := by
  rw [execAtan2]
  cases atanResult s.cfg x y with
  | some a => exact ⟨_, rfl, rfl, rfl, id, List.prefix_rfl⟩
  | none => exact ⟨_, rfl, rfl, rfl, id, List.prefix_rfl⟩

/-- Every operation goes on to a state that continues the one before: the rows of the table in the order of
`Instr`, those that only send a token together. -/
theorem exists_continues_exec (i : Instr) (s : State) : ∃ t, exec i s = .next t ∧ Continues s t := by
  cases i with
  | atan2 x y => exact exists_continues_execAtan2 x y s
  | rxByte _ | hostMemRead _ _ | reqStartRadioCal => exact ⟨_, rfl, rfl, rfl, id, List.prefix_rfl⟩
  | tick => exact ⟨_, rfl, continues_tickAll s⟩
  | hostMemWrite _ _ _ => exact ⟨_, rfl, .ite _ ⟨rfl, rfl, id, List.prefix_rfl⟩⟩
  | frameRadio p | frameSensors p | frameQuat p | frameComputed p | frameMotors p | frameTargetQuat p
  | frameDebug p | frameGps p => exact ⟨_, rfl, continues_decodeRec _ p s⟩
  | frameSettings p => exact ⟨_, rfl, continues_settingsFrame p s⟩
  | frameUnknown _ _ | reqMotorTest | reqReservedE | reqReservedF =>
    exact ⟨_, rfl, continues_takeCondition _ s⟩
  | reqNop | calIdle => exact ⟨_, rfl, .refl s⟩
  | reqLeaveView => exact ⟨_, rfl, continues_leaveView s⟩
  | reqThrAdvance ack => exact ⟨_, rfl, continues_thrAdvance ack s⟩
  | reqThrCancel => exact ⟨_, rfl, rfl, rfl, id, List.prefix_append _ _⟩
  | reqUploadPrefs => exact ⟨_, rfl, continues_upload s⟩
  | thr0to1 ack => exact ⟨_, rfl, .ite _ (continues_thrStart ack s)⟩
  | thr1to2 => exact ⟨_, rfl, .ite _ (continues_thrMaxThrottle s)⟩
  | thr2to3 => exact ⟨_, rfl, .ite _ (continues_thrMinThrottle s)⟩
  | thr3to0 => exact ⟨_, rfl, .ite _ (continues_thrFinish s)⟩
  | calReset => exact ⟨_, rfl, .ite _ (continues_calResetTick s)⟩
  | calSampling => exact ⟨_, rfl, .ite _ (continues_calSamplingTick s)⟩
  | calApply => exact ⟨_, rfl, .ite _ (continues_calApplyTick s)⟩
  | heartbeat => exact ⟨_, rfl, continues_beat s⟩
  | uploadStream => exact ⟨_, rfl, continues_emit s _⟩
  | reqQueryPrefs | reqWipePrefs | reqResetRadio | reqRevertGyro | reqRevertAccel | reqZeroGyro | reqZeroAccel
  | tokenHeartbeat | tokenQueryPrefs | tokenUpdatePrefs | tokenWipePrefs | tokenResetRadio | tokenRevertGyro
  | tokenRevertAccel | tokenZeroGyro | tokenZeroAccel | tokenThrottleCal | tokenThrMax | tokenThrEsc =>
    exact ⟨_, rfl, continues_sendToken s _⟩

theorem continues_of_exec {i : Instr} {s t : State} (h : exec i s = .next t) : Continues s t := by
  obtain ⟨u, hu, hc⟩ := exists_continues_exec i s
  obtain rfl : u = t := Host.Outcome.next.inj (hu.symm.trans h)
  exact hc

/-- Settles O55: the part of `Continues` about `OUT`. -/
theorem outputTraceOnlyGrows : Obligations.OutputTraceOnlyGrows :=
  fun _ _ _ h => (continues_of_exec h).out

/-- Settles O58: the other parts of `Continues`. -/
theorem configurationAndValidBitArePreserved : Obligations.ConfigurationAndValidBitArePreserved :=
  fun _ _ _ h =>
    have hc := continues_of_exec h
    ⟨hc.cfg, hc.pending, hc.prefValid⟩

end Sys2Proof.Machine
end

section
/-! SUPPORT. The host's memory port: what the space codes select (20_memory.md R58), the bytes of the `CAL` view
(R53), and what a read answers and a write reaches (R66, R67). -/

namespace Sys2Proof.Machine

/-! ### The space codes -/

/-- Code 0, and no other, selects `PREF`. -/
theorem spaceOf_eq_pref_iff (space : BitVec 4) : spaceOf space = some .pref ↔ space = 0#4 := by
  revert space
  decide

/-- Codes 1 to 8 select the record of the kind with that code. -/
theorem spaceOf_eq_record {space : BitVec 4} {k : RecKind} (h : space.toNat = k.idx.val + 1) :
    spaceOf space = some (.record k) := by
  rw [spaceOf, h]
  cases k <;> rfl

/-- Codes 10 to 15 select nothing. -/
theorem spaceOf_eq_none {space : BitVec 4} (h : 10 ≤ space.toNat) : spaceOf space = none := by
  revert space
  decide

theorem State.hostByte_of_spaceOf {space : BitVec 4} {sp : Space} (h : spaceOf space = some sp)
    (addr : Half) (s : State) : s.hostByte space addr = s.spaceByte sp addr.toNat := by
  rw [State.hostByte, h]

theorem State.hostByte_of_spaceOf_none {space : BitVec 4} (h : spaceOf space = none) (addr : Half) (s : State) :
    s.hostByte space addr = 0#8 := by
  rw [State.hostByte, h]

/-! ### The `CAL` view -/

theorem length_calSampleBytes (x : CalSample) : (calSampleBytes x).length = 8 := rfl

theorem length_calView (cal : Bank CalSample) : (calView cal).length = 64 := rfl

/-- In a list put together from blocks of `n` elements, element `n * i + j` is element `j` of block `i`. -/
theorem getD_flatMap_of_length {α β : Type} {f : α → List β} {n : Nat} (hlen : ∀ a, (f a).length = n)
    {xs : List α} {a : α} {i j : Nat} (hi : xs[i]? = some a) (hj : j < n) (d : β) :
    (xs.flatMap f).getD (n * i + j) d = (f a).getD j d := by
  induction xs generalizing i with
  | nil => simp at hi
  | cons x xs ih =>
    rw [List.flatMap_cons]
    cases i with
    | zero =>
      obtain rfl : x = a := by simpa using hi
      have hfirst : n * 0 + j < (f x).length := by rw [hlen]; omega
      rw [List.getD_append _ _ _ _ hfirst, Nat.mul_zero, Nat.zero_add]
    | succ i =>
      have hlater : (f x).length ≤ n * (i + 1) + j := by rw [hlen, Nat.mul_succ]; omega
      have hrest : n * (i + 1) + j - (f x).length = n * i + j := by rw [hlen, Nat.mul_succ]; omega
      rw [List.getD_append_right _ _ _ _ hlater, hrest, ih (by simpa using hi)]

theorem getElem?_channels (ch : Fin 8) : channels[ch.val]? = some ch := by
  revert ch
  decide

/-- Offset `8c + j` of the view is byte `j` of the sample of channel `c` (R53). -/
theorem getD_calView (cal : Bank CalSample) (ch : Fin 8) {j : Nat} (hj : j < 8) :
    (calView cal).getD (8 * ch.val + j) 0#8 = (calSampleBytes (cal.get ch)).getD j 0#8 :=
  getD_flatMap_of_length (fun c => length_calSampleBytes (cal.get c)) (getElem?_channels ch) hj 0#8

/-- Code 9 selects the view, which reads as `00` past its end. -/
theorem State.hostByte_cal (addr : Half) (s : State) :
    s.hostByte 9#4 addr = (calView s.cal).getD addr.toNat 0#8 :=
  State.hostByte_of_spaceOf (sp := .cal) rfl addr s

/-! ### The two operations -/

theorem exec_hostMemRead (space : BitVec 4) (addr : Half) (s : State) :
    exec (.hostMemRead space addr) s = .next { s with memRdata := s.hostByte space addr } := rfl

/-- Settles O26, by the space the code selects; a byte of the `CAL` view is found in the block of its channel. -/
theorem hostReadAnswersTheByte : Obligations.HostReadAnswersTheByte := by
  intro space addr s
  refine ⟨s.hostByte space addr, exec_hostMemRead space addr s, fun hpref => ?pref, fun k hk => ?record,
    fun ch j hcal hj haddr => ?sample, fun hcal haddr => ?pastSamples, fun hcode => ?noSpace⟩
  case pref => exact State.hostByte_of_spaceOf ((spaceOf_eq_pref_iff space).mpr hpref) addr s
  case record => exact State.hostByte_of_spaceOf (spaceOf_eq_record hk) addr s
  case sample =>
    rw [hcal, State.hostByte_cal, haddr, getD_calView s.cal ch hj]
    rfl
  case pastSamples =>
    have hpast : (calView s.cal).length ≤ addr.toNat := (length_calView s.cal).trans_le haddr
    rw [hcal, State.hostByte_cal, List.getD_eq_default _ _ hpast]
  case noSpace => exact State.hostByte_of_spaceOf_none (spaceOf_eq_none hcode) addr s

/-- A write inside `PREF`. -/
theorem exec_hostMemWrite_inside {addr : Half} {s : State} (h : addr.toNat < s.cfg.prefSize) (data : Byte) :
    exec (.hostMemWrite 0#4 addr data) s = .next { s with pref := s.pref.write addr.toNat data } :=
  congrArg Host.Outcome.next (if_pos ⟨rfl, h⟩)

/-- A write to another space or past the end of `PREF`. -/
theorem exec_hostMemWrite_outside {space : BitVec 4} {addr : Half} {s : State}
    (h : space ≠ 0#4 ∨ s.cfg.prefSize ≤ addr.toNat) (data : Byte) :
    exec (.hostMemWrite space addr data) s = .next s := by
  have hnot : ¬(spaceOf space = some .pref ∧ addr.toNat < s.cfg.prefSize) := by
    rw [spaceOf_eq_pref_iff]
    rintro ⟨hspace, haddr⟩
    exact h.elim (fun hne => hne hspace) haddr.not_ge
  exact congrArg Host.Outcome.next (if_neg hnot)

/-- Settles O27, by whether the write is inside `PREF`; there the bytes are those of `Memory.read_write`. -/
theorem hostWriteReachesOnlyPref : Obligations.HostWriteReachesOnlyPref := by
  refine fun space addr data s => ⟨fun hspace haddr hwf => ?inside, fun h => exec_hostMemWrite_outside h data⟩
  case inside =>
    subst hspace
    refine ⟨_, exec_hostMemWrite_inside haddr data, rfl, ?written, fun a ha => ?kept⟩
    case written => rw [Memory.read_write hwf, if_pos rfl]
    case kept => rw [Memory.read_write hwf, if_neg ha]

end Sys2Proof.Machine
end

section
/-! SUPPORT. The encoding (30_encoding.md): fields of the words, the header of a frame, the mode tags and the tokens
found by their bytes, the round trip of every operation through its word, and what the emitted rows send. -/

namespace Sys2Proof

open Machine

/-! ### Fields of a word -/

/-- A field inside the low part of two parts put together. -/
theorem bitField_append_low {m n : Nat} (a : BitVec m) (b : BitVec n) {lo len : Nat} (h : lo + len ≤ n) :
    bitField (a ++ b) lo len = bitField b lo len :=
  BitVec.extractLsb'_append_eq_of_add_le h

/-- A field inside the high part of two parts put together. -/
theorem bitField_append_high {m n : Nat} (a : BitVec m) (b : BitVec n) {lo len : Nat} (h : n ≤ lo) :
    bitField (a ++ b) lo len = bitField a (lo - n) len :=
  BitVec.extractLsb'_append_eq_of_le h

theorem bitField_append_left {m n : Nat} (a : BitVec m) (b : BitVec n) : bitField (a ++ b) n m = a := by
  rw [bitField_append_high a b le_rfl, Nat.sub_self]
  exact BitVec.extractLsb'_eq_self

theorem bitField_append_right {m n : Nat} (a : BitVec m) (b : BitVec n) : bitField (a ++ b) 0 n = b := by
  rw [bitField_append_low a b (by omega)]
  exact BitVec.extractLsb'_eq_self

/-- A field read out of the low bits. -/
theorem bitField_bitField_zero {n : Nat} (w : BitVec n) {k lo len : Nat} (h : lo + len ≤ k) :
    bitField (bitField w 0 k) lo len = bitField w lo len := by
  simp only [bitField]
  ext i hi
  have hk : lo + i < k := by omega
  simp [hk]

/-! ### Ports -/

/-- The two operands of an `ATAN2` query read back from their word (R88). -/
theorem decodeAtan_append (x y : Word) : decodeAtan (x ++ y) = .atan2 x y :=
  congrArg₂ Instr.atan2 (bitField_append_left x y) (bitField_append_right x y)

/-- The fields of a memory word (10_state.md R33), `MEM_WE` first. -/
theorem bitField_memWord (we : BitVec 1) (space : BitVec 4) (addr : Half) (data : Byte) :
    bitField (we ++ space ++ addr ++ data) 28 1 = we ∧ bitField (we ++ space ++ addr ++ data) 24 4 = space ∧
      bitField (we ++ space ++ addr ++ data) 8 16 = addr ∧ bitField (we ++ space ++ addr ++ data) 0 8 = data := by
  have hrest {lo len : Nat} (h : 24 ≤ lo) :
      bitField (we ++ space ++ addr ++ data) lo len = bitField (we ++ space) (lo - 24) len :=
    (bitField_append_high _ data (by omega)).trans
      ((bitField_append_high _ addr (by omega)).trans (by rw [Nat.sub_sub]))
  exact ⟨(hrest (by decide)).trans (bitField_append_left we space),
    (hrest (by decide)).trans (bitField_append_right we space),
    (bitField_append_high _ data (by decide)).trans (bitField_append_right _ addr), bitField_append_right _ data⟩

theorem decodeMem_read (space : BitVec 4) (addr : Half) (data : Byte) :
    decodeMem (0#1 ++ space ++ addr ++ data) = .hostMemRead space addr := by
  obtain ⟨hwe, hspace, haddr, -⟩ := bitField_memWord 0#1 space addr data
  rw [decodeMem, hwe, hspace, haddr, if_neg (by decide)]

theorem decodeMem_write (space : BitVec 4) (addr : Half) (data : Byte) :
    decodeMem (1#1 ++ space ++ addr ++ data) = .hostMemWrite space addr data := by
  obtain ⟨hwe, hspace, haddr, hdata⟩ := bitField_memWord 1#1 space addr data
  rw [decodeMem, hwe, hspace, haddr, hdata, if_pos rfl]

/-! ### Requests -/

@[simp] theorem reqOp_encodeReq (op : BitVec 4) (ack : Bool) : reqOp (encodeReq op ack) = op :=
  bitField_append_right _ op

@[simp] theorem reqAck_encodeReq (op : BitVec 4) (ack : Bool) : reqAck (encodeReq op ack) = ack := by
  revert op ack
  decide

theorem reqOp_eq_lowBits (w : Byte) : reqOp w = bitField (bitField w 0 5) 0 4 :=
  (bitField_bitField_zero w (by decide)).symm

theorem reqAck_eq_lowBits (w : Byte) : reqAck w = decide (bitField (bitField w 0 5) 4 1 = 1#1) := by
  rw [bitField_bitField_zero w (by decide), reqAck]

/-- A request word decodes as the canonical word with its `OP` and its `ACK`: nothing else is read (R80). -/
theorem decodeReq_eq_encodeReq (w : Byte) : decodeReq w = decodeReq (encodeReq (reqOp w) (reqAck w)) := by
  rw [decodeReq, decodeReq, reqOp_encodeReq, reqAck_encodeReq]

/-- Only `THR_ADVANCE`, code 3, reads `ACK` (R80). -/
theorem decodeReq_encodeReq_of_ne {op : BitVec 4} (h : op ≠ 3#4) (a b : Bool) :
    decodeReq (encodeReq op a) = decodeReq (encodeReq op b) := by
  revert op a b
  decide

theorem decodeReq_thrAdvance (ack : Bool) : decodeReq (encodeReq 3#4 ack) = .reqThrAdvance ack := by
  cases ack <;> rfl

/-- Settles O9: both words decode as the canonical words of their fields, which are the same word or differ in an
`ACK` that is not read. -/
theorem requestReadsOnlyItsFields : Obligations.RequestReadsOnlyItsFields := by
  refine fun c v w => ⟨fun h => congrArg Except.ok ?opAndAck, fun hop hne => congrArg Except.ok ?opOnly⟩
  case opAndAck =>
    have hop : reqOp v = reqOp w := by rw [reqOp_eq_lowBits v, reqOp_eq_lowBits w, h]
    have hack : reqAck v = reqAck w := by rw [reqAck_eq_lowBits v, reqAck_eq_lowBits w, h]
    rw [decodeReq_eq_encodeReq v, hop, hack, ← decodeReq_eq_encodeReq w]
  case opOnly =>
    have hop' : reqOp v = reqOp w := hop
    have hne' : reqOp w ≠ 3#4 := hop' ▸ hne
    rw [decodeReq_eq_encodeReq v, hop', decodeReq_encodeReq_of_ne hne' _ (reqAck w), ← decodeReq_eq_encodeReq w]

/-- Settles O8. -/
theorem everyExternalWordDecodes : Obligations.EveryExternalWordDecodes :=
  fun c _ h => exists_decode_of_external c h

/-- The transition that `THR_ADVANCE` makes in each cycle (44_throttle_cal.md R186). -/
def thrInstr (ack : Bool) : ThrCycle → Instr
  | .c0 => .thr0to1 ack
  | .c1 => .thr1to2
  | .c2 => .thr2to3
  | .c3 => .thr3to0

/-- A throttle transition is presented with a `THR_ADVANCE` word (R186). -/
theorem decodeThr_of_thrAdvance {w : Byte} (h : reqOp w = 3#4) (cycle : ThrCycle) :
    decodeThr cycle w = .ok (thrInstr (reqAck w) cycle) := by
  cases cycle <;> exact if_pos h

theorem decodeThr_encodeReq (cycle : ThrCycle) (ack : Bool) :
    decodeThr cycle (encodeReq 3#4 ack) = .ok (thrInstr ack cycle) := by
  rw [decodeThr_of_thrAdvance (reqOp_encodeReq 3#4 ack), reqAck_encodeReq]

/-! ### What is found by its bytes -/

/-- Among elements with pairwise different images, the first with the image of `a` is `a`. -/
theorem find?_of_nodup_map {α β : Type} [DecidableEq β] {f : α → β} {xs : List α} (h : (xs.map f).Nodup) {a : α}
    (ha : a ∈ xs) : (xs.find? fun x => f x = f a) = some a := by
  induction xs with
  | nil => simp at ha
  | cons x xs ih =>
    obtain ⟨hx, hxs⟩ := List.nodup_cons.mp (List.map_cons ▸ h)
    obtain rfl | ha := List.mem_cons.mp ha
    · exact List.find?_cons_of_pos (by simp)
    · have hne : f x ≠ f a := fun e => hx (e ▸ List.mem_map_of_mem ha)
      rw [List.find?_cons_of_neg (by simpa using hne), ih hxs ha]

/-- The search by image, one element at a time: the shape of a chain of comparisons. -/
theorem find?_image_cons {α β : Type} [DecidableEq β] (f : α → β) (b : β) (x : α) (xs : List α) :
    ((x :: xs).find? fun y => f y = b) = if b = f x then some x else xs.find? fun y => f y = b := by
  by_cases h : b = f x
  · rw [if_pos h, List.find?_cons_of_pos (by simp [h])]
  · rw [if_neg h, List.find?_cons_of_neg (by simpa using Ne.symm h)]

/-! Tokens. -/

theorem mem_tokenAll (t : Token) : t ∈ Token.all := by
  cases t <;> decide

/-- Where no two tokens have the same bytes, the bytes of a token name it. -/
theorem decodeToken_tokenBytes {c : Config} (h : c.TokensDistinct) (t : Token) :
    decodeToken c (c.tokenBytes t) = .ok (tokenInstr t) := by
  rw [decodeToken, find?_of_nodup_map h (mem_tokenAll t)]

/-! Mode tags. -/

/-- The nine kinds of frame, in the order of R73. -/
def Kind.all : List Kind :=
  [.telemetry .radio, .telemetry .sensors, .telemetry .quat, .telemetry .computed, .telemetry .motors,
   .telemetry .targetQuat, .telemetry .debug, .telemetry .gps, .settings]

/-- The tag of a kind of frame (R73). -/
def ModeTags.tag (m : ModeTags) : Kind → Byte
  | .telemetry .radio => m.radio
  | .telemetry .sensors => m.sensors
  | .telemetry .quat => m.quat
  | .telemetry .computed => m.computed
  | .telemetry .motors => m.motors
  | .telemetry .targetQuat => m.targetQuat
  | .telemetry .debug => m.debug
  | .telemetry .gps => m.gps
  | .settings => m.settings

theorem mem_kindAll (k : Kind) : k ∈ Kind.all := by
  obtain k | _ := k
  · cases k <;> decide
  · decide

theorem map_tag_kindAll (m : ModeTags) : Kind.all.map m.tag = m.toList := rfl

/-- A mode byte selects the first kind with that tag (R73). -/
theorem kindOfMode_eq_find? (c : Config) (m : Byte) : kindOfMode c m = Kind.all.find? fun k => c.modes.tag k = m := by
  simp only [Kind.all, find?_image_cons, List.find?_nil]
  rfl

theorem kindOfMode_tag {c : Config} (h : c.modes.toList.Nodup) (k : Kind) :
    kindOfMode c (c.modes.tag k) = some k := by
  rw [kindOfMode_eq_find?]
  exact find?_of_nodup_map (map_tag_kindAll c.modes ▸ h) (mem_kindAll k)

/-- The unknown modes are the bytes that are no tag (R74). -/
theorem kindOfMode_eq_none_iff (c : Config) (m : Byte) : kindOfMode c m = none ↔ m ∉ c.modes.toList := by
  rw [kindOfMode_eq_find?, ← map_tag_kindAll, List.find?_eq_none]
  simp

/-- Settles O11: the tags of `CFG_REF` are 1 to 9. -/
theorem referenceUnknownModes : Obligations.ReferenceUnknownModes := by
  intro m
  rw [kindOfMode_eq_none_iff]
  simp only [Config.ref, ModeTags.toList, List.mem_cons, List.not_mem_nil, or_false]
  bv_omega

/-! ### Frames -/

/-- The length bytes of a frame, lowest first, hold the length (R71, R72). -/
theorem toNat_le16Of_lengthBytes {n : Nat} (h : n ≤ 65535) :
    (le16Of (BitVec.ofNat 8 (n % 256)) (BitVec.ofNat 8 (n / 256))).toNat = n := by
  rw [toNat_le16Of, BitVec.toNat_ofNat, BitVec.toNat_ofNat]
  omega

/-- Two bytes are the length bytes of the number they hold. -/
theorem lengthBytes_toNat_le16Of (l0 l1 : Byte) :
    BitVec.ofNat 8 ((le16Of l0 l1).toNat % 256) = l0 ∧ BitVec.ofNat 8 ((le16Of l0 l1).toNat / 256) = l1 := by
  rw [toNat_le16Of]
  constructor <;> bv_omega

theorem nextFrame_cons (mode l0 l1 : Byte) (q : List Byte) :
    nextFrame (mode :: l0 :: l1 :: q) =
      if q.length < (le16Of l0 l1).toNat then none
      else some (⟨mode, q.take (le16Of l0 l1).toNat⟩, q.drop (le16Of l0 l1).toNat) := rfl

/-- The bytes of a frame: mode, length low byte, length high byte, payload (R71). -/
def frameBytes (p : Packet) : List Byte :=
  p.mode :: BitVec.ofNat 8 (p.payload.length % 256) :: BitVec.ofNat 8 (p.payload.length / 256) :: p.payload

/-- A frame at the head of the stream is taken whole and exactly. -/
theorem nextFrame_frameBytes {p : Packet} (h : p.payload.length ≤ 65535) (rest : List Byte) :
    nextFrame (frameBytes p ++ rest) = some (p, rest) := by
  rw [frameBytes, List.cons_append, List.cons_append, List.cons_append, nextFrame_cons,
    toNat_le16Of_lengthBytes h, if_neg (by simp), List.take_left, List.drop_left]

/-- What is taken is a frame at the head of the stream. -/
theorem eq_frameBytes_of_nextFrame {q rest : List Byte} {p : Packet} (h : nextFrame q = some (p, rest)) :
    p.payload.length ≤ 65535 ∧ q = frameBytes p ++ rest := by
  match q with
  | [] | [_] | [_, _] => simp [nextFrame] at h
  | mode :: l0 :: l1 :: q =>
    rw [nextFrame_cons] at h
    split at h
    · simp at h
    · rename_i hlong
      simp only [Option.some.injEq, Prod.mk.injEq] at h
      obtain ⟨rfl, rfl⟩ := h
      have hlength : (q.take (le16Of l0 l1).toNat).length = (le16Of l0 l1).toNat :=
        List.length_take_of_le (Nat.le_of_not_lt hlong)
      obtain ⟨hlow, hhigh⟩ := lengthBytes_toNat_le16Of l0 l1
      refine ⟨?bound, ?bytes⟩
      case bound => rw [hlength]; exact Nat.le_of_lt_succ (le16Of l0 l1).isLt
      case bytes => simp [frameBytes, hlength, hlow, hhigh]

/-- Settles O13: the two directions of the framer, and `nextPacket_eq` for `NEXT_PACKET`. -/
theorem frameIsHeaderThenPayload : Obligations.FrameIsHeaderThenPayload := by
  refine ⟨fun q rest p => ⟨eq_frameBytes_of_nextFrame, ?framed⟩, fun s s' p => ?packet⟩
  case framed =>
    rintro ⟨hlen, rfl⟩
    exact nextFrame_frameBytes hlen rest
  case packet =>
    simp only [nextPacket_eq, Option.map_eq_some_iff, Prod.exists, Prod.mk.injEq]
    constructor
    · rintro ⟨_, rest, hframe, rfl, rfl⟩
      exact ⟨rest, hframe, rfl⟩
    · rintro ⟨rest, hframe, rfl⟩
      exact ⟨p, rest, hframe, rfl, rfl⟩

/-- The encoder writes the bytes of a frame (R93). -/
theorem encodeFrame_eq_frameBytes {payload : List Byte} (mode : Byte) (h : payload.length ≤ 65535) :
    encodeFrame mode payload = .frame (frameBytes ⟨mode, payload⟩) := by
  have hlen : (BitVec.ofNat 16 payload.length).toNat = payload.length := Nat.mod_eq_of_lt (Nat.lt_succ_of_le h)
  obtain ⟨hlow, hhigh⟩ := lengthBytes_toNat_le16Of (bitField (BitVec.ofNat 16 payload.length) 0 8)
    (bitField (BitVec.ofNat 16 payload.length) 8 8)
  rw [le16Of_bytes, hlen] at hlow hhigh
  rw [encodeFrame, bytesOfHalf, frameBytes, hlow, hhigh]
  rfl

/-- An encoded frame decodes to the operation that its mode selects. -/
theorem decode_encodeFrame (c : Config) (mode : Byte) {payload : List Byte} (h : payloadOk payload = true) :
    decode c (encodeFrame mode payload) = .ok (frameInstr c ⟨mode, payload⟩) := by
  have hlen : payload.length ≤ 65535 := of_decide_eq_true h
  have hframe := nextFrame_frameBytes (p := ⟨mode, payload⟩) hlen []
  rw [List.append_nil] at hframe
  rw [encodeFrame_eq_frameBytes mode hlen, decode, decodeFrame, hframe]

/-- A frame with the tag of a telemetry kind. -/
theorem decode_encodeFrame_telemetry {c : Config} (hc : c.modes.toList.Nodup) (k : RecKind) {payload : List Byte}
    (h : payloadOk payload = true) :
    decode c (encodeFrame (c.modes.tag (.telemetry k)) payload) = .ok (telemetryInstr k payload) := by
  rw [decode_encodeFrame c _ h, frameInstr, kindOfMode_tag hc]

theorem decode_encodeFrame_settings {c : Config} (hc : c.modes.toList.Nodup) {payload : List Byte}
    (h : payloadOk payload = true) :
    decode c (encodeFrame c.modes.settings payload) = .ok (.frameSettings payload) := by
  have hkind : kindOfMode c c.modes.settings = some .settings := kindOfMode_tag hc .settings
  rw [decode_encodeFrame c _ h, frameInstr, hkind]

/-- A frame with no known tag (R74). -/
theorem decode_encodeFrame_unknown {c : Config} {mode : Byte} (hm : mode ∉ c.modes.toList) {payload : List Byte}
    (h : payloadOk payload = true) :
    decode c (encodeFrame mode payload) = .ok (.frameUnknown mode payload) := by
  rw [decode_encodeFrame c _ h, frameInstr, (kindOfMode_eq_none_iff c mode).mpr hm]

/-! ### The round trip -/

/-- Settles O7, by cases on the operation: the words of each format are read back by the lemmas of that format, and
a word without operands is its own literal. -/
theorem decodeOfEncodeIsTheOperation : Obligations.DecodeOfEncodeIsTheOperation := by
  intro c i hmodes htokens hwf
  cases i with
  | atan2 x y => exact congrArg Except.ok (decodeAtan_append x y)
  | hostMemRead space addr => exact congrArg Except.ok (decodeMem_read space addr 0#8)
  | hostMemWrite space addr data => exact congrArg Except.ok (decodeMem_write space addr data)
  | frameRadio _ => exact decode_encodeFrame_telemetry hmodes .radio hwf
  | frameSensors _ => exact decode_encodeFrame_telemetry hmodes .sensors hwf
  | frameQuat _ => exact decode_encodeFrame_telemetry hmodes .quat hwf
  | frameComputed _ => exact decode_encodeFrame_telemetry hmodes .computed hwf
  | frameMotors _ => exact decode_encodeFrame_telemetry hmodes .motors hwf
  | frameTargetQuat _ => exact decode_encodeFrame_telemetry hmodes .targetQuat hwf
  | frameDebug _ => exact decode_encodeFrame_telemetry hmodes .debug hwf
  | frameGps _ => exact decode_encodeFrame_telemetry hmodes .gps hwf
  | frameSettings p => exact decode_encodeFrame_settings hmodes hwf
  | frameUnknown m p =>
    obtain ⟨hlen, hm⟩ : payloadOk p = true ∧ m ∉ c.modes.toList := by simpa [Instr.wf] using hwf
    exact decode_encodeFrame_unknown hm hlen
  | reqThrAdvance ack => exact congrArg Except.ok (decodeReq_thrAdvance ack)
  | thr0to1 ack => exact decodeThr_encodeReq .c0 ack
  | thr1to2 => exact decodeThr_encodeReq .c1 false
  | thr2to3 => exact decodeThr_encodeReq .c2 false
  | thr3to0 => exact decodeThr_encodeReq .c3 false
  | tokenHeartbeat | tokenQueryPrefs | tokenUpdatePrefs | tokenWipePrefs | tokenResetRadio | tokenRevertGyro
  | tokenRevertAccel | tokenZeroGyro | tokenZeroAccel | tokenThrottleCal | tokenThrMax | tokenThrEsc =>
    exact decodeToken_tokenBytes htokens _
  | uploadStream => exact if_pos rfl
  | rxByte _ | tick | calIdle | calReset | calSampling | calApply | heartbeat
  | reqNop | reqStartRadioCal | reqLeaveView | reqThrCancel | reqUploadPrefs | reqQueryPrefs | reqWipePrefs
  | reqResetRadio | reqRevertGyro | reqRevertAccel | reqZeroGyro | reqZeroAccel | reqMotorTest | reqReservedE
  | reqReservedF => rfl

/-- Settles O10, word by word. -/
theorem writtenWordsDecode : Obligations.WrittenWordsDecode :=
  ⟨rfl, rfl, rfl, rfl, rfl, rfl, rfl⟩

/-! ### What the emitted rows send -/

namespace Machine

theorem exec_tokenInstr (t : Token) (s : State) : exec (tokenInstr t) s = .next (s.sendToken t) := by
  cases t <;> rfl

/-- Settles O25. -/
theorem tokensSendTheirBytes : Obligations.TokensSendTheirBytes :=
  fun s => ⟨fun t => exec_tokenInstr t s, rfl, rfl⟩

@[simp] theorem sentBytes_append (es fs : List OutEvent) : sentBytes (es ++ fs) = sentBytes es ++ sentBytes fs :=
  List.filterMap_append

@[simp] theorem sentBytes_txEvents (bs : List Byte) : sentBytes (txEvents bs) = bs := by
  have hsent : sentByte ∘ OutEvent.tx = some := rfl
  rw [sentBytes, txEvents, List.filterMap_map, hsent, List.filterMap_some]

@[simp] theorem sentBytes_nil : sentBytes [] = [] := rfl

/-- A gap sends no byte (30_encoding.md R87). -/
@[simp] theorem sentBytes_gap_cons (g : GapId) (es : List OutEvent) : sentBytes (.gap g :: es) = sentBytes es := rfl

@[simp] theorem count_gap_txEvents (g : GapId) (bs : List Byte) : (txEvents bs).count (.gap g) = 0 := by
  simp [List.count_eq_zero, txEvents]

/-- Chunk `j` of an upload: its four bytes and a gap (42_checksum_prefs.md R144, step 4). -/
def chunkOf (m : Memory) (j : Nat) : List OutEvent :=
  [.tx (m.read (4 * j)), .tx (m.read (4 * j + 1)), .tx (m.read (4 * j + 2)), .tx (m.read (4 * j + 3)), .gap .chunk]

theorem chunkOf_eq (m : Memory) (j : Nat) : chunkOf m j = txEvents (m.readBytes (4 * j) 4) ++ [.gap .chunk] := rfl

theorem chunkEvents_eq (c : Config) (m : Memory) :
    chunkEvents c m = (List.range (c.prefSize / 4)).flatMap (chunkOf m) := rfl

/-- The chunks send the record in increasing offset order. -/
theorem sentBytes_chunks (m : Memory) (n : Nat) :
    sentBytes ((List.range n).flatMap (chunkOf m)) = m.readBytes 0 (4 * n) := by
  induction n with
  | zero => rfl
  | succ n ih =>
    rw [List.range_succ, List.flatMap_append, sentBytes_append, ih, List.flatMap_singleton, chunkOf_eq,
      Nat.mul_succ, Memory.readBytes_add]
    simp

/-- Each chunk has one gap, the chunk gap. -/
theorem count_gap_chunks (m : Memory) (n : Nat) (g : GapId) :
    ((List.range n).flatMap (chunkOf m)).count (.gap g) = if g = .chunk then n else 0 := by
  induction n with
  | zero => simp
  | succ n ih =>
    rw [List.range_succ, List.flatMap_append, List.count_append, ih, List.flatMap_singleton, chunkOf_eq,
      List.count_append, count_gap_txEvents]
    cases g <;> simp

/-- Settles O23: the stream is the model's, part by part, and its bytes and gaps are counted by the lemmas about its
chunks. -/
theorem uploadStreamCarriesTheRecord : Obligations.UploadStreamCarriesTheRecord := by
  intro s hpref
  obtain ⟨-, hmul, -, -⟩ := hpref
  refine ⟨uploadEvents s.cfg s.pref, rfl, rfl, ?bytes, ?chunkGaps, ?settleGaps⟩
  case bytes =>
    have hsize : 4 * (s.cfg.prefSize / 4) = s.cfg.prefSize := Nat.mul_div_cancel' (Nat.dvd_of_mod_eq_zero hmul)
    simp [uploadEvents, chunkEvents_eq, sentBytes_chunks, hsize, Config.tokenBytes]
  case chunkGaps => simp [uploadEvents, chunkEvents_eq, count_gap_chunks]
  case settleGaps => simp [uploadEvents, chunkEvents_eq, count_gap_chunks]

end Machine
end Sys2Proof
end

section
/-! SUPPORT. The `ATAN2` unit (40_atan2.md): the octant reduction transform by transform, how far the iterations
move the vector and the correction, and what a query drives. -/

namespace Sys2Proof.Machine

/-! ### The three transforms (R102) -/

theorem turnHalf_of_neg {v : AtanVec} (h : v.y < 0) : turnHalf v = ⟨-v.x, -v.y, v.o + 4⟩ := if_pos h

theorem turnHalf_of_nonneg {v : AtanVec} (h : 0 ≤ v.y) : turnHalf v = v := if_neg (Int.not_lt.mpr h)

theorem turnQuarter_of_nonpos {v : AtanVec} (h : v.x ≤ 0) : turnQuarter v = ⟨v.y, -v.x, v.o + 2⟩ := if_pos h

theorem turnQuarter_of_pos {v : AtanVec} (h : 0 < v.x) : turnQuarter v = v := if_neg (Int.not_le.mpr h)

theorem turnEighth_of_le {v : AtanVec} (h : v.x ≤ v.y) : turnEighth v = ⟨v.x + v.y, v.y - v.x, v.o + 1⟩ :=
  if_pos h

theorem turnEighth_of_lt {v : AtanVec} (h : v.y < v.x) : turnEighth v = v := if_neg (Int.not_le.mpr h)

/-- The half turn leaves a vector above the `x` axis. -/
theorem turnHalf_y_pos {v : AtanVec} (h : v.y ≠ 0) : 0 < (turnHalf v).y := by
  rcases Int.lt_or_le v.y 0 with hneg | hnonneg
  · rw [turnHalf_of_neg hneg]
    exact Int.neg_pos.mpr hneg
  · rw [turnHalf_of_nonneg hnonneg]
    omega

/-- From above the `x` axis, the quarter turn leaves a vector in the first quadrant. -/
theorem turnQuarter_firstQuadrant {v : AtanVec} (h : 0 < v.y) : 0 < (turnQuarter v).x ∧ 0 ≤ (turnQuarter v).y := by
  rcases Int.lt_or_le 0 v.x with hpos | hnonpos
  · rw [turnQuarter_of_pos hpos]
    exact ⟨hpos, h.le⟩
  · rw [turnQuarter_of_nonpos hnonpos]
    exact ⟨h, Int.neg_nonneg_of_nonpos hnonpos⟩

/-- From the first quadrant, the eighth turn leaves a vector in the first octant. -/
theorem turnEighth_firstOctant {v : AtanVec} (hx : 0 < v.x) (hy : 0 ≤ v.y) :
    0 < (turnEighth v).x ∧ 0 ≤ (turnEighth v).y ∧ (turnEighth v).y < (turnEighth v).x := by
  rcases Int.lt_or_le v.y v.x with hlt | hle
  · rw [turnEighth_of_lt hlt]
    exact ⟨hx, hy, hlt⟩
  · rw [turnEighth_of_le hle]
    refine ⟨?_, ?_, ?_⟩ <;> simp only <;> omega

/-! ### The octant index counts the eighth turns -/

theorem turnHalf_o_le (v : AtanVec) : (turnHalf v).o ≤ v.o + 4 := by
  rw [turnHalf]
  split <;> simp

theorem turnQuarter_o_le (v : AtanVec) : (turnQuarter v).o ≤ v.o + 2 := by
  rw [turnQuarter]
  split <;> simp

theorem turnEighth_o_le (v : AtanVec) : (turnEighth v).o ≤ v.o + 1 := by
  rw [turnEighth]
  split <;> simp

/-! ### The size of the vector -/

/-- Both coordinates are at most `b` in size. -/
def AtanVec.Within (b : Int) (v : AtanVec) : Prop := |v.x| ≤ b ∧ |v.y| ≤ b

theorem turnHalf_within {b : Int} {v : AtanVec} (h : v.Within b) : (turnHalf v).Within b := by
  rw [turnHalf]
  split
  · exact ⟨(abs_neg v.x).trans_le h.1, (abs_neg v.y).trans_le h.2⟩
  · exact h

theorem turnQuarter_within {b : Int} {v : AtanVec} (h : v.Within b) : (turnQuarter v).Within b := by
  rw [turnQuarter]
  split
  · exact ⟨h.2, (abs_neg v.x).trans_le h.1⟩
  · exact h

/-- The eighth turn adds the coordinates at most. -/
theorem turnEighth_x_le {b : Int} {v : AtanVec} (h : v.Within b) : (turnEighth v).x ≤ 2 * b := by
  have hx : v.x ≤ b := (le_abs_self v.x).trans h.1
  have hy : v.y ≤ b := (le_abs_self v.y).trans h.2
  have hb : 0 ≤ b := (abs_nonneg v.x).trans h.1
  rw [turnEighth]
  split
  · simp only; omega
  · omega

/-! ### The octant reduction (R103) -/

theorem octantReduce_firstOctant (x : Int) {y : Int} (h : y ≠ 0) :
    0 < (octantReduce x y).x ∧ 0 ≤ (octantReduce x y).y ∧ (octantReduce x y).y < (octantReduce x y).x := by
  obtain ⟨hx, hy⟩ := turnQuarter_firstQuadrant (turnHalf_y_pos (v := ⟨x, y, 0⟩) h)
  exact turnEighth_firstOctant hx hy

theorem octantReduce_o_le (x y : Int) : (octantReduce x y).o ≤ 7 :=
  calc (octantReduce x y).o
    _ ≤ (turnQuarter (turnHalf ⟨x, y, 0⟩)).o + 1 := turnEighth_o_le _
    _ ≤ (turnHalf ⟨x, y, 0⟩).o + 2 + 1 := Nat.add_le_add_right (turnQuarter_o_le _) 1
    _ ≤ 0 + 4 + 2 + 1 := Nat.add_le_add_right (turnHalf_o_le _) 3

theorem octantReduce_x_le {b x y : Int} (hx : |x| ≤ b) (hy : |y| ≤ b) : (octantReduce x y).x ≤ 2 * b :=
  turnEighth_x_le (turnQuarter_within (turnHalf_within ⟨hx, hy⟩))

/-- Settles O52: the intermediate vectors are those after the half turn and after the quarter turn. -/
theorem octantReductionReachesTheFirstOctant : Obligations.OctantReductionReachesTheFirstOctant := by
  intro x y hy v
  obtain ⟨hxpos, hynonneg, hlt⟩ := octantReduce_firstOctant x hy
  refine ⟨?transforms, hxpos, hynonneg, hlt, octantReduce_o_le x y, fun b => octantReduce_x_le⟩
  let v₁ := turnHalf ⟨x, y, 0⟩
  let v₂ := turnQuarter v₁
  refine ⟨v₁.x, v₁.y, v₂.x, v₂.y, v₁.o, v₂.o, fun h => ?_, fun h => ?_, fun h => ?_, fun h => ?_, fun h => ?_,
    fun h => ?_⟩
  · simp [v₁, turnHalf_of_neg (v := ⟨x, y, 0⟩) h]
  · simp [v₁, turnHalf_of_nonneg (v := ⟨x, y, 0⟩) h]
  · simp [v₂, turnQuarter_of_nonpos h]
  · simp [v₂, turnQuarter_of_pos h]
  · have hv : v = ⟨v₂.x + v₂.y, v₂.y - v₂.x, v₂.o + 1⟩ := turnEighth_of_le h
    simp [hv]
  · have hv : v = v₂ := turnEighth_of_lt h
    simp [hv]

/-! ### The correction (R108) -/

theorem cordicStep_dphi_near (i t : Nat) (v : Cordic) : |(cordicStep i t v).dphi - v.dphi| ≤ t := by
  rcases cordicStep_cases i t v with ⟨-, hstep⟩ | ⟨-, hstep⟩ <;> rw [hstep] <;> simp

/-- The iterations move the correction by the table's total at most. -/
theorem cordicRun_dphi_near (i : Nat) (ts : List Nat) (v : Cordic) :
    |(cordicRun i ts v).dphi - v.dphi| ≤ ts.sum := by
  induction ts generalizing i v with
  | nil => simp [cordicRun]
  | cons t ts ih =>
    rw [List.sum_cons, Nat.cast_add, Int.add_comm]
    exact (abs_sub_le _ (cordicStep i t v).dphi _).trans
      (Int.add_le_add (ih (i + 1) (cordicStep i t v)) (cordicStep_dphi_near i t v))

theorem abs_atanStages_dphi_le (c : Config) (x y : Int) : |(atanStages c x y).2| ≤ c.atanLut.sum := by
  simpa [atanStages] using
    cordicRun_dphi_near 1 c.atanLut ⟨(prescale c (octantReduce x y)).x, (prescale c (octantReduce x y)).y, 0⟩

theorem prescale_o (c : Config) (v : AtanVec) : (prescale c v).o = v.o := by
  rcases prescale_cases c v with ⟨-, hpre⟩ | ⟨-, hpre⟩ <;> rw [hpre]

theorem atanStages_octant_le (c : Config) (x y : Int) : (atanStages c x y).1 ≤ 7 :=
  (prescale_o c _).trans_le (octantReduce_o_le x y)

/-- Settles O53: the table's total bounds the correction, and the index is at most 7. -/
theorem atanSumStaysInRange : Obligations.AtanSumStaysInRange := by
  intro x y _
  have hsum : Config.ref.atanLut.sum = 9985 := rfl
  obtain ⟨hlow, hhigh⟩ := abs_le.mp (abs_atanStages_dphi_le Config.ref x y)
  have ho := atanStages_octant_le Config.ref x y
  have hoctant : Config.ref.atanOctant = 2048 := rfl
  have hshift : Config.ref.atanOutShift = 2 := rfl
  rw [hsum] at hlow hhigh
  simp only [atanSum, hoctant, hshift, asr]
  omega

/-! ### The vector during the iterations (R109) -/

/-- A shift to the right keeps a bound, up to the rounding down. -/
theorem abs_asr_le {b v : Int} (h : |v| ≤ b) (n : Nat) : |asr v n| ≤ asr b n + 1 := by
  obtain ⟨hlow, hhigh⟩ := abs_le.mp h
  have hm : (0 : Int) < (2 ^ n : Nat) := by positivity
  have hb : b < (asr b n + 1) * (2 ^ n : Nat) := Int.lt_ediv_add_one_mul_self b hm
  refine abs_le.mpr ⟨(Int.le_ediv_iff_mul_le hm).mpr ?_, (Int.ediv_le_ediv hm hhigh).trans (Int.le_add_one le_rfl)⟩
  rw [Int.neg_mul]
  omega

/-- Both coordinates are at most `b` in size. -/
def Cordic.Within (b : Int) (v : Cordic) : Prop := |v.x| ≤ b ∧ |v.y| ≤ b

/-- One iteration adds a shifted coordinate at most to each coordinate. -/
theorem cordicStep_within {b : Int} {v : Cordic} (h : v.Within b) (i t : Nat) :
    (cordicStep i t v).Within (b + (asr b i + 1)) := by
  obtain ⟨hx, hy⟩ := h
  have hsx := abs_asr_le hx i
  have hsy := abs_asr_le hy i
  rcases cordicStep_cases i t v with ⟨-, hstep⟩ | ⟨-, hstep⟩ <;> rw [hstep]
  · exact ⟨(abs_add_le _ _).trans (Int.add_le_add hx hsy), (abs_sub _ _).trans (Int.add_le_add hy hsx)⟩
  · exact ⟨(abs_sub _ _).trans (Int.add_le_add hx hsy), (abs_add_le _ _).trans (Int.add_le_add hy hsx)⟩

/-- How large a coordinate of size at most `b` can be after the iterations `1, …, n`. -/
def sizeBound (b : Int) : Nat → Int
  | 0 => b
  | n + 1 => sizeBound b n + (asr (sizeBound b n) (n + 1) + 1)

theorem cordicRun_within {b : Int} {v : Cordic} (h : v.Within b) (ts : List Nat) {n : Nat} (hn : n ≤ ts.length) :
    (cordicRun 1 (ts.take n) v).Within (sizeBound b n) := by
  induction n with
  | zero => exact h
  | succ n ih =>
    rw [cordicRun_take_succ 1 n ts[n] ts v (List.getElem?_eq_getElem hn), Nat.add_comm 1]
    exact cordicStep_within (ih (Nat.le_of_succ_le hn)) (n + 1) ts[n]

/-- The iterations start in a box of `2 ^ 28`: the prescale takes only what is below its limit (R104). -/
theorem prescale_octantReduce_within {x y : Int} (h : y ≠ 0) (hx : |x| ≤ 262144) (hy : |y| ≤ 262144) :
    (prescale Config.ref (octantReduce x y)).Within (2 ^ 28) := by
  have hlimit : Config.ref.atanSmallLimit = 65536 := rfl
  have hfactor : Config.ref.atanPrescale = 4096 := rfl
  obtain ⟨hpos, hnonneg, hlt⟩ := octantReduce_firstOctant x h
  have hle := octantReduce_x_le hx hy
  rcases prescale_cases Config.ref (octantReduce x y) with ⟨hsmall, hpre⟩ | ⟨-, hpre⟩ <;> rw [hpre]
  · rw [hlimit] at hsmall
    constructor <;> rw [hfactor, abs_le] <;> constructor <;> simp only <;> omega
  · constructor <;> rw [abs_le] <;> constructor <;> omega

/-- The product of the factors `1 + 2 ^ -i` is below 3, which leaves room below `2 ^ 31`. -/
theorem sizeBound_lt : ∀ n ≤ 11, sizeBound (2 ^ 28) n < 2147483648 := by decide

/-- Settles O54: the vector starts in a box of `2 ^ 28`, and the iterations let the box grow to `sizeBound`. -/
theorem atanNeverLeavesThirtyTwoBits : Obligations.AtanNeverLeavesThirtyTwoBits := by
  intro x y hne hx hy v n hn r
  obtain ⟨hstartX, hstartY⟩ := prescale_octantReduce_within hne hx hy
  obtain ⟨hrx, hry⟩ := cordicRun_within (v := ⟨v.x, v.y, 0⟩) ⟨hstartX, hstartY⟩ Config.ref.atanLut hn
  exact ⟨hrx.trans_lt (sizeBound_lt n hn), hry.trans_lt (sizeBound_lt n hn)⟩

/-! ### What a query drives -/

theorem exec_atan2 (x y : Word) (s : State) : exec (.atan2 x y) s = execAtan2 x y s := rfl

theorem exec_atan2_of_result {x y : Word} {s : State} {a : Half} (h : atanResult s.cfg x y = some a) :
    exec (.atan2 x y) s = .next { s with atanAngle := a } := by
  rw [exec_atan2, execAtan2, h]

theorem exec_atan2_of_free {x y : Word} {s : State} (h : atanResult s.cfg x y = none) :
    exec (.atan2 x y) s =
      .next { s with atanAngle := Config.freeAngle s.freeCount x y, freeCount := s.freeCount + 1 } := by
  rw [exec_atan2, execAtan2, h]

theorem atanResult_axis (c : Config) (x : Word) : atanResult c x 0#32 = some (atanAxis c x.toInt) := rfl

theorem atanResult_domain {c : Config} {x y : Word} (hy : y.toInt ≠ 0) (hdom : AtanDomain c x y) :
    atanResult c x y = some (BitVec.ofInt 16 (atanSum c x.toInt y.toInt)) := by
  rw [atanResult, if_neg hy, if_pos hdom]

theorem atanResult_outside {c : Config} {x y : Word} (hy : y.toInt ≠ 0) (hdom : ¬AtanDomain c x y) :
    atanResult c x y = none := by
  rw [atanResult, if_neg hy, if_neg hdom]

/-- Settles O49: on the axis the result is that of the special case, whose two branches are the sign of `x`. -/
theorem atanOnTheAxis : Obligations.AtanOnTheAxis := by
  intro x s
  rw [exec_atan2_of_result (atanResult_axis s.cfg x), atanAxis]
  refine ⟨fun hnonneg => ?_, fun hneg => ?_, rfl⟩
  · rw [if_pos hnonneg]
  · rw [if_neg (Int.not_le.mpr hneg)]

/-- Settles O51: outside the domain the rules give no result, and the angle driven is the free one. -/
theorem atanOutsideTheDomainIsOpen : Obligations.AtanOutsideTheDomainIsOpen :=
  fun x y s hy hdom => ⟨Config.freeAngle s.freeCount x y, exec_atan2_of_free (atanResult_outside hy hdom)⟩

/-! ### The stages of a query in the domain (R104, R106, R107) -/

theorem prescale_of_small {c : Config} {v : AtanVec} (h : v.x < c.atanSmallLimit) :
    prescale c v = ⟨v.x * c.atanPrescale, v.y * c.atanPrescale, v.o⟩ := if_pos h

theorem prescale_of_large {c : Config} {v : AtanVec} (h : c.atanSmallLimit ≤ v.x) : prescale c v = v :=
  if_neg (Int.not_lt.mpr h)

theorem asr_eq_ediv (v : Int) (n : Nat) : asr v n = v / 2 ^ n := by
  rw [asr, Nat.cast_pow, Nat.cast_ofNat]

theorem cordicStep_of_nonneg {v : Cordic} (h : 0 ≤ v.y) (i t : Nat) :
    cordicStep i t v = ⟨v.x + v.y / 2 ^ i, v.y - v.x / 2 ^ i, v.dphi + t⟩ := by
  rw [cordicStep, if_pos h, asr_eq_ediv, asr_eq_ediv]

theorem cordicStep_of_neg {v : Cordic} (h : v.y < 0) (i t : Nat) :
    cordicStep i t v = ⟨v.x - v.y / 2 ^ i, v.y + v.x / 2 ^ i, v.dphi - t⟩ := by
  rw [cordicStep, if_neg (Int.not_le.mpr h), asr_eq_ediv, asr_eq_ediv]

/-- The vector and the correction of a query after `n` iterations. -/
def cordicAfter (c : Config) (v : AtanVec) (n : Nat) : Cordic :=
  cordicRun 1 (c.atanLut.take n) ⟨(prescale c v).x, (prescale c v).y, 0⟩

theorem cordicAfter_zero (c : Config) (v : AtanVec) :
    cordicAfter c v 0 = ⟨(prescale c v).x, (prescale c v).y, 0⟩ := rfl

theorem cordicAfter_succ {c : Config} {n t : Nat} (v : AtanVec) (h : c.atanLut[n]? = some t) :
    cordicAfter c v (n + 1) = cordicStep (n + 1) t (cordicAfter c v n) := by
  rw [cordicAfter, cordicRun_take_succ 1 n t c.atanLut _ h, Nat.add_comm 1, cordicAfter]

theorem atanSum_eq (c : Config) (x y : Int) :
    atanSum c x y = (octantReduce x y).o * c.atanOctant +
      (cordicAfter c (octantReduce x y) c.atanLut.length).dphi / 2 ^ c.atanOutShift := by
  simp only [atanSum, atanStages, cordicAfter, prescale_o, asr_eq_ediv, List.take_length]

/-- Settles O50: `X`, `Y` and `D` are the coordinates and the correction of `cordicAfter`. -/
theorem atanCombinesOctantAndCorrection : Obligations.AtanCombinesOctantAndCorrection := by
  refine ⟨?query, rfl, rfl, rfl, rfl, rfl⟩
  intro x y s hy hdom v
  let r := cordicAfter s.cfg v
  refine ⟨fun n => (r n).x, fun n => (r n).y, fun n => (r n).dphi, fun hsmall => ?small, fun hlarge => ?large, rfl,
    fun n t ht => ⟨fun hnonneg => ?nonneg, fun hneg => ?neg⟩, ?start, fun n _ => rfl, ?angle⟩
  case small => simp [r, cordicAfter_zero, prescale_of_small hsmall]
  case large => simp [r, cordicAfter_zero, prescale_of_large hlarge]
  case nonneg => simp [r, cordicAfter_succ v ht, cordicStep_of_nonneg hnonneg]
  case neg => simp [r, cordicAfter_succ v ht, cordicStep_of_neg hneg]
  case start => simp [r, cordicAfter_zero, ← prescale_o s.cfg v]
  case angle => rw [exec_atan2_of_result (atanResult_domain hy hdom), atanSum_eq]

end Sys2Proof.Machine
end

section
/-! SUPPORT. FRAMER and DISPATCHER (41_framer_dispatch.md): what one packet takes off the queue, the drain as the loop
of R123, the frame operation a mode selects, and what each frame operation writes. -/

namespace Sys2Proof.Machine

/-! ### One packet -/

theorem nextPacket_eq_none_iff (s : State) : nextPacket s = none ↔ nextFrame s.rxq = none := by
  rw [nextPacket_eq, Option.map_eq_none_iff]

/-- A packet is taken off `RXQ`, which keeps a shorter tail; nothing else changes (R121). -/
theorem exists_tail_of_nextPacket {s s' : State} {p : Packet} (h : nextPacket s = some (p, s')) :
    ∃ rest, s' = { s with rxq := rest } ∧ rest.length < s.rxq.length ∧ rest <:+ s.rxq := by
  obtain ⟨_, packet⟩ := frameIsHeaderThenPayload
  obtain ⟨rest, hframe, hs'⟩ := (packet s s' p).mp h
  obtain ⟨hlen, htail⟩ := nextFrame_tail hframe
  exact ⟨rest, hs', by omega, htail⟩

/-- Each packet the drain dispatches leaves a shorter queue, so the drain comes to an end. -/
theorem length_rxq_dispatch_lt {s s' : State} {p : Packet} (h : nextPacket s = some (p, s')) :
    (dispatch p s').rxq.length < s.rxq.length := by
  obtain ⟨rest, rfl, hlen, -⟩ := exists_tail_of_nextPacket h
  rwa [dispatch_rxq]

/-! ### The drain is the loop of R123 -/

theorem drainUpTo_of_none {s : State} (h : nextPacket s = none) (n : Nat) : drainUpTo n s = s := by
  cases n with
  | zero => rfl
  | succ n => rw [drainUpTo, h]

theorem drainUpTo_succ_of_some {s s' : State} {p : Packet} (h : nextPacket s = some (p, s')) (n : Nat) :
    drainUpTo (n + 1) s = drainUpTo n (dispatch p s') := by
  rw [drainUpTo, h]

/-- Two bounds that the queue's length does not exceed give the same drain: neither is met. -/
theorem drainUpTo_eq_of_length_le {m n : Nat} {s : State} (hm : s.rxq.length ≤ m) (hn : s.rxq.length ≤ n) :
    drainUpTo m s = drainUpTo n s := by
  induction m generalizing n s with
  | zero =>
    have hempty : s.rxq = [] := List.eq_nil_of_length_eq_zero (Nat.le_zero.mp hm)
    have hnone : nextPacket s = none := by rw [nextPacket_eq_none_iff, hempty]; rfl
    rw [drainUpTo_of_none hnone, drainUpTo_of_none hnone]
  | succ m ih =>
    cases hp : nextPacket s with
    | none => rw [drainUpTo_of_none hp, drainUpTo_of_none hp]
    | some r =>
      obtain ⟨p, s'⟩ := r
      have hlt := length_rxq_dispatch_lt hp
      obtain ⟨n, rfl⟩ : ∃ k, n = k + 1 := Nat.exists_eq_add_one.mpr (by omega)
      rw [drainUpTo_succ_of_some hp, drainUpTo_succ_of_some hp]
      exact ih (by omega) (by omega)

theorem drain_of_none {s : State} (h : nextPacket s = none) : drain s = s := drainUpTo_of_none h _

/-- The first packet is dispatched and the drain goes on (R123). -/
theorem drain_of_some {s s' : State} {p : Packet} (h : nextPacket s = some (p, s')) :
    drain s = drain (dispatch p s') := by
  have hlt := length_rxq_dispatch_lt h
  calc drain s
    _ = drainUpTo (s.rxq.length + 1) s := drainUpTo_eq_of_length_le le_rfl (Nat.le_succ _)
    _ = drainUpTo s.rxq.length (dispatch p s') := drainUpTo_succ_of_some h _
    _ = drain (dispatch p s') := drainUpTo_eq_of_length_le hlt.le le_rfl

/-- No complete frame is left: the loop ends only there. -/
theorem nextFrame_drain (s : State) : nextFrame (drain s).rxq = none := by
  induction hlen : s.rxq.length using Nat.strong_induction_on generalizing s with
  | _ n ih =>
    cases hp : nextPacket s with
    | none =>
      rw [drain_of_none hp]
      exact (nextPacket_eq_none_iff s).mp hp
    | some r =>
      obtain ⟨p, s'⟩ := r
      rw [drain_of_some hp]
      exact ih _ (hlen ▸ length_rxq_dispatch_lt hp) _ rfl

/-- The drain takes bytes from the head of the queue only. -/
theorem drain_rxq_suffix (s : State) : (drain s).rxq <:+ s.rxq := by
  refine drain_induction (P := fun t => t.rxq <:+ s.rxq) List.suffix_rfl fun u p rest hu hframe => ?_
  obtain ⟨-, htail⟩ := nextFrame_tail hframe
  rw [dispatch_rxq]
  exact htail.trans hu

/-- Settles O15. -/
theorem drainIsExhaustive : Obligations.DrainIsExhaustive :=
  fun s => ⟨nextFrame_drain s, drain_rxq_suffix s⟩

/-! ### The frame operation a mode selects (R124) -/

theorem exec_telemetryInstr (k : RecKind) (payload : List Byte) (s : State) :
    exec (telemetryInstr k payload) s = .next (decodeRec k payload s) := by
  cases k <;> rfl

theorem exec_frameSettings (payload : List Byte) (s : State) :
    exec (.frameSettings payload) s = .next (settingsFrame payload s) := rfl

theorem exec_frameUnknown (mode : Byte) (payload : List Byte) (s : State) :
    exec (.frameUnknown mode payload) s = .next (unknownFrame s) := rfl

/-- Dispatching a packet is running its frame operation. -/
theorem exec_frameInstr (p : Packet) (s : State) : exec (frameInstr s.cfg p) s = .next (dispatch p s) := by
  obtain ⟨k, hk, e⟩ | ⟨hk, e⟩ | ⟨hk, e⟩ := dispatch_cases p s <;> rw [frameInstr, hk, e]
  · exact exec_telemetryInstr k p.payload s
  · exact exec_frameSettings p.payload s
  · exact exec_frameUnknown p.mode p.payload s

/-- A packet with the tag of a telemetry kind, where no other kind has that tag. -/
theorem exec_telemetryInstr_of_mode {p : Packet} {s : State} (hs : s.cfg.modes.toList.Nodup) (k : RecKind)
    (h : p.mode = s.cfg.modes.tag (.telemetry k)) :
    exec (telemetryInstr k p.payload) s = .next (dispatch p s) := by
  rw [← exec_frameInstr, frameInstr, h, kindOfMode_tag hs]

theorem exec_frameSettings_of_mode {p : Packet} {s : State} (hs : s.cfg.modes.toList.Nodup)
    (h : p.mode = s.cfg.modes.tag .settings) :
    exec (.frameSettings p.payload) s = .next (dispatch p s) := by
  rw [← exec_frameInstr, frameInstr, h, kindOfMode_tag hs]

/-- A packet whose mode is no tag (30_encoding.md R74). -/
theorem exec_frameUnknown_of_mode {p : Packet} {s : State} (h : p.mode ∉ s.cfg.modes.toList) :
    exec (.frameUnknown p.mode p.payload) s = .next (dispatch p s) := by
  rw [← exec_frameInstr, frameInstr, (kindOfMode_eq_none_iff s.cfg p.mode).mpr h]

/-- Settles O14: the loop by whether a packet is queued, and the operation of a packet by the kind its mode
selects. -/
theorem drainIsTheLoopOfItsRule : Obligations.DrainIsTheLoopOfItsRule := by
  refine ⟨fun s => ?loop, fun s s' p hp => ?operation, fun p s hs => ?byMode⟩
  case loop =>
    cases hp : nextPacket s with
    | none => exact drain_of_none hp
    | some r => exact drain_of_some hp
  case operation =>
    obtain ⟨rest, rfl, -, -⟩ := exists_tail_of_nextPacket hp
    exact exec_frameInstr p { s with rxq := rest }
  case byMode =>
    have telemetry := exec_telemetryInstr_of_mode (p := p) hs
    exact ⟨telemetry .radio, telemetry .sensors, telemetry .quat, telemetry .computed, telemetry .motors,
      telemetry .targetQuat, telemetry .debug, telemetry .gps, exec_frameSettings_of_mode hs,
      exec_frameUnknown_of_mode⟩

/-! ### What the frame operations write -/

@[simp] theorem record_decodeRec_same (k : RecKind) (payload : List Byte) (s : State) :
    (decodeRec k payload s).record k = Memory.ofBytes (s.recordSize k) payload := by
  rw [decodeRec, State.record_emit, State.record_setRecord_same]

theorem record_decodeRec_ne {k l : RecKind} (h : l ≠ k) (payload : List Byte) (s : State) :
    (decodeRec k payload s).record l = s.record l := by
  rw [decodeRec, State.record_emit, State.record_setRecord_ne _ _ h]

/-- Settles O16: the record is the space built from the payload, whose bytes are those of `Memory.read_ofBytes`. -/
theorem telemetryFrameReplacesItsRecord : Obligations.TelemetryFrameReplacesItsRecord := by
  refine fun k payload s => ⟨decodeRec k payload s, exec_telemetryInstr k payload s, decodeRec_eq k payload s,
    fun l hl => record_decodeRec_ne hl payload s, ?canonical, fun a => ?bytes⟩
  case canonical => rw [record_decodeRec_same]; exact Memory.wf_ofBytes _ _
  case bytes => rw [record_decodeRec_same, Memory.read_ofBytes]

/-- A staging record whose checksum matches is accepted (R135; 42_checksum_prefs.md R142). -/
theorem settingsFrame_of_match {payload : List Byte} {s : State}
    (h : recordCksum s.cfg (stage s.cfg payload) = prefChecksum s.cfg (stage s.cfg payload)) :
    settingsFrame payload s =
      { s with pref := stage s.cfg payload, prefValid := true, out := s.out ++ [.notify .settings] } := by
  rw [settingsFrame_eq, validate, if_pos (decide_eq_true h)]

/-- A staging record whose checksum does not match is dropped, and the record is queried again (R135). -/
theorem settingsFrame_of_mismatch {payload : List Byte} {s : State}
    (h : recordCksum s.cfg (stage s.cfg payload) ≠ prefChecksum s.cfg (stage s.cfg payload)) :
    settingsFrame payload s =
      { s with
        conds := s.conds ++ [.checksumMismatch]
        out := s.out ++ s.cfg.cmds.queryPrefs.map .tx ++ [.notify .settings] } := by
  rw [settingsFrame_eq, validate, decide_eq_false h, if_neg Bool.false_ne_true, ← List.append_assoc]
  rfl

/-- Settles O17, by whether the checksum of the staging record matches. -/
theorem settingsFrameIsChecksumGated : Obligations.SettingsFrameIsChecksumGated := by
  refine fun payload s => ⟨stage s.cfg payload, (settingsFrame payload s).conds, Memory.wf_ofBytes _ _,
    Memory.read_ofBytes _ _, ?_⟩
  rw [exec_frameSettings]
  by_cases h : recordCksum s.cfg (stage s.cfg payload) = prefChecksum s.cfg (stage s.cfg payload)
  · rw [if_pos h, settingsFrame_of_match h]
  · rw [if_neg h, settingsFrame_of_mismatch h]

/-- The byte goes to the end of `RXQ` (R120). -/
theorem exec_rxByte (b : Byte) (s : State) : exec (.rxByte b) s = .next { s with rxq := s.rxq ++ [b] } := rfl

/-- Settles O12. -/
theorem rxByteAppendsAtTheTail : Obligations.RxByteAppendsAtTheTail := exec_rxByte

/-- The handling of an unknown mode is empty (60_exceptions.md R220). -/
theorem unknownFrame_eq (s : State) : unknownFrame s = { s with conds := s.conds ++ [.unknownMode] } := by
  rw [unknownFrame, takeCondition_eq, handlingEvents, handledCycle, List.append_nil]

/-- Settles O18: only the model's own trace grows. -/
theorem unknownFrameIsDropped : Obligations.UnknownFrameIsDropped := by
  intro m payload s
  rw [exec_frameUnknown, unknownFrame_eq]
  exact ⟨_, rfl⟩

end Sys2Proof.Machine
end

section
/-! SUPPORT. CHECKSUM and the preferences transfer (42_checksum_prefs.md): the checksum as a sum of words, what one
changed byte does to the computed and to the stored checksum, and what an upload and a fixed verb send. -/

namespace Sys2Proof.Machine

/-! ### One changed byte of a word -/

/-- Four bytes are told apart by the word they make. -/
theorem le32Of_inj {a0 a1 a2 a3 b0 b1 b2 b3 : Byte} (h : le32Of a0 a1 a2 a3 = le32Of b0 b1 b2 b3) :
    a0 = b0 ∧ a1 = b1 ∧ a2 = b2 ∧ a3 = b3 := by
  have hnat := congrArg BitVec.toNat h
  rw [toNat_le32Of, toNat_le32Of] at hnat
  bv_omega

/-- Two memories with the same word at `a` agree on its four bytes. -/
theorem Memory.read_eq_of_word_eq {m n : Memory} {a i : Nat} (h : m.word a = n.word a) (hlo : a ≤ i)
    (hhi : i < a + 4) : m.read i = n.read i := by
  obtain ⟨h0, h1, h2, h3⟩ := le32Of_inj h
  obtain rfl | rfl | rfl | rfl : i = a ∨ i = a + 1 ∨ i = a + 2 ∨ i = a + 3 := by omega
  · exact h0
  · exact h1
  · exact h2
  · exact h3

theorem Memory.word_write_ne {m : Memory} (hm : m.wf) {a i : Nat} {b : Byte} (hlo : a ≤ i) (hhi : i < a + 4)
    (hb : b ≠ m.read i) : Memory.word (m.write i b) a ≠ m.word a := by
  intro h
  have hread := Memory.read_eq_of_word_eq h hlo hhi
  rw [Memory.read_write hm, if_pos rfl] at hread
  exact hb hread

theorem Memory.word_write_of_disjoint {m : Memory} (hm : m.wf) {a i : Nat} (b : Byte) (h : i < a ∨ a + 4 ≤ i) :
    Memory.word (m.write i b) a = m.word a :=
  Memory.word_writeBytes_of_disjoint (bs := [b]) hm (by rw [List.length_singleton]; omega)

/-! ### The checksum is the seed plus the words of the body (R140) -/

/-- The checksum field is the last word of the record (R11). -/
theorem ckOff_add_four {c : Config} (h : c.PrefOk) : c.ckOff + 4 = c.prefSize := by
  obtain ⟨hsize, -, -, -⟩ := h
  exact Nat.sub_add_cancel (by omega)

/-- The body is whole words (R11). -/
theorem four_mul_ckOff_div {c : Config} (h : c.PrefOk) : 4 * (c.ckOff / 4) = c.ckOff := by
  have hend := ckOff_add_four h
  obtain ⟨-, hmul, -, -⟩ := h
  omega

theorem cksumFrom_readBytes (acc : Word) (m : Memory) (a n : Nat) :
    cksumFrom acc (m.readBytes a (4 * n)) = acc + ∑ j ∈ Finset.range n, m.word (a + 4 * j) := by
  induction n generalizing acc a with
  | zero => exact (BitVec.add_zero acc).symm
  | succ n ih =>
    have hstep : cksumFrom acc (m.readBytes a (4 + 4 * n)) =
        cksumFrom (acc + m.word a) (m.readBytes (a + 4) (4 * n)) := by
      rw [Memory.readBytes_add]
      rfl
    have hnext : ∀ j, a + 4 + 4 * j = a + 4 * (j + 1) := fun j => by omega
    rw [Nat.mul_succ, Nat.add_comm, hstep, ih, Finset.sum_range_succ', add_assoc, add_comm (m.word a)]
    simp only [hnext, Nat.mul_zero, Nat.add_zero]

theorem recordCksum_eq_sum {c : Config} (h : c.PrefOk) (m : Memory) :
    recordCksum c m = c.ckSeed + ∑ j ∈ Finset.range (c.ckOff / 4), m.word (4 * j) := by
  have hsum := cksumFrom_readBytes c.ckSeed m 0 (c.ckOff / 4)
  rw [four_mul_ckOff_div h] at hsum
  simpa only [recordCksum, cksum, Nat.zero_add] using hsum

/-! ### `STAMP` and `VALIDATE` (R141, R142) -/

theorem validate_iff (c : Config) (m : Memory) : validate c m = true ↔ recordCksum c m = prefChecksum c m :=
  decide_eq_true_iff

theorem validate_eq_false_iff (c : Config) (m : Memory) :
    validate c m = false ↔ recordCksum c m ≠ prefChecksum c m :=
  decide_eq_false_iff_not

/-- The stamp lies outside the body it sums. -/
theorem recordCksum_stamp (c : Config) {m : Memory} (hm : m.wf) : recordCksum c (stamp c m) = recordCksum c m :=
  recordCksum_congr c fun _ ha => read_stamp_of_ne c hm (.inl ha)

theorem validate_stamp (c : Config) {m : Memory} (hm : m.wf) : validate c (stamp c m) = true := by
  rw [validate_iff, recordCksum_stamp c hm, prefChecksum_stamp c hm]

/-- Settles O19: the stamp stores the computed checksum and leaves it as it was. -/
theorem stampedRecordValidates : Obligations.StampedRecordValidates := fun c _ _ hm => validate_stamp c hm

/-! ### A single changed byte (R143, property (b)) -/

/-- A changed byte of the body changes exactly one word of the sum. -/
theorem recordCksum_write_ne {c : Config} (h : c.PrefOk) {m : Memory} (hm : m.wf) {a : Nat} {b : Byte}
    (ha : a < c.ckOff) (hb : b ≠ m.read a) : recordCksum c (m.write a b) ≠ recordCksum c m := by
  have hwords := four_mul_ckOff_div h
  have hword : a / 4 ∈ Finset.range (c.ckOff / 4) := Finset.mem_range.mpr (by omega)
  have hothers : ∑ j ∈ (Finset.range (c.ckOff / 4)).erase (a / 4), Memory.word (m.write a b) (4 * j) =
      ∑ j ∈ (Finset.range (c.ckOff / 4)).erase (a / 4), m.word (4 * j) := by
    refine Finset.sum_congr rfl fun j hj => Memory.word_write_of_disjoint hm b ?_
    have hne := Finset.ne_of_mem_erase hj
    omega
  rw [recordCksum_eq_sum h, recordCksum_eq_sum h, ← Finset.add_sum_erase _ _ hword, hothers,
    ← Finset.add_sum_erase _ _ hword]
  intro heq
  exact Memory.word_write_ne hm (by omega) (by omega) hb (add_right_cancel (add_left_cancel heq))

/-- Settles O21: a byte of the body moves the computed checksum and not the stored one, a byte of the checksum field
the stored one and not the computed one. -/
theorem singleByteChangeIsDetected : Obligations.SingleByteChangeIsDetected := by
  intro c m a b hpref hm hvalid ha hb
  have hend := ckOff_add_four hpref
  rw [validate_iff] at hvalid
  rw [validate_eq_false_iff]
  by_cases hbody : a < c.ckOff
  case pos =>
    have hstored : prefChecksum c (m.write a b) = prefChecksum c m :=
      Memory.word_write_of_disjoint hm b (.inl hbody)
    rw [hstored, ← hvalid]
    exact recordCksum_write_ne hpref hm hbody hb
  case neg =>
    have hcomputed : recordCksum c (m.write a b) = recordCksum c m :=
      recordCksum_congr c fun i hi => by rw [Memory.read_write hm, if_neg (by omega)]
    rw [hcomputed, hvalid]
    exact (Memory.word_write_ne hm (by omega) (by omega) hb).symm

/-! ### What the transfer requests send -/

theorem exec_reqUploadPrefs (s : State) : exec .reqUploadPrefs s = .next (upload s) := rfl

/-- Settles O22: an upload is the stamp of `PREF` and the stream of what was stamped. -/
theorem uploadStampsThenSends : Obligations.UploadStampsThenSends := by
  intro s hpref hm
  refine ⟨upload s, exec_reqUploadPrefs s, ?stream, fun a ha => ?frame, prefChecksum_stamp s.cfg hm,
    validate_stamp s.cfg hm⟩
  case stream =>
    rw [upload_eq, uploadEvents, ← List.append_assoc, ← List.append_assoc, ← List.append_assoc]
    rfl
  case frame =>
    rw [← ckOff_add_four hpref] at ha
    exact read_stamp_of_ne s.cfg hm ha

/-- Settles O24: each verb is `sendToken` of its token, and the reference bytes are those of R147 to R153. -/
theorem fixedVerbsSendOneToken : Obligations.FixedVerbsSendOneToken :=
  fun _ => ⟨rfl, rfl, rfl, rfl, rfl, rfl, rfl, rfl, rfl, rfl, rfl, rfl, rfl, rfl⟩

end Sys2Proof.Machine
end

section
/-! SUPPORT. RADIOCAL (43_radio_cal.md): the row that `cal_step` selects is the calibration phase, what each phase
does, and the arithmetic of Apply on integers. -/

namespace Sys2Proof.Machine

/-! ### The rows of the calibration (R165) -/

/-- The row that `cal_step` selects, run alone, is the calibration phase of a tick. -/
theorem exec_decodeCal {s : State} {k : CalStep} (h : s.calStep = k) :
    exec (decodeCal k) s = .next (calTick s) := by
  rw [calTick, h]
  cases k with
  | idle => rfl
  | reset | sampling | apply => exact congrArg Host.Outcome.next (if_pos h)

/-- A row that another `cal_step` selects (assumption 4). -/
theorem exec_decodeCal_of_ne {s : State} {k : CalStep} (h : s.calStep ≠ k) : exec (decodeCal k) s = .next s := by
  cases k with
  | idle => rfl
  | reset | sampling | apply => exact congrArg Host.Outcome.next (if_neg h)

theorem calTick_of_idle {s : State} (h : s.calStep = .idle) : calTick s = s := by
  rw [calTick, h]
  rfl

theorem calTick_of_reset {s : State} (h : s.calStep = .reset) : calTick s = calResetTick s := by rw [calTick, h]

theorem calTick_of_sampling {s : State} (h : s.calStep = .sampling) : calTick s = calSamplingTick s := by
  rw [calTick, h]

theorem calTick_of_apply {s : State} (h : s.calStep = .apply) : calTick s = calApplyTick s := by rw [calTick, h]

/-- Settles O42: each row is a choice on its selector, and the other branch is the state itself. -/
theorem unselectedRowsDoNothing : Obligations.UnselectedRowsDoNothing := fun _ _ =>
  ⟨exec_decodeCal_of_ne (k := .reset), exec_decodeCal_of_ne (k := .sampling), exec_decodeCal_of_ne (k := .apply),
    fun h => congrArg Host.Outcome.next (if_neg h), fun h => congrArg Host.Outcome.next (if_neg h),
    fun h => congrArg Host.Outcome.next (if_neg h), fun h => congrArg Host.Outcome.next (if_neg h)⟩

/-! ### The two requests and the Idle and Reset rules -/

theorem exec_reqStartRadioCal (s : State) : exec .reqStartRadioCal s = .next { s with calStep := .reset } := rfl

/-- Settles O28. -/
theorem startWritesOnlyCalStep : Obligations.StartWritesOnlyCalStep := exec_reqStartRadioCal

theorem exec_reqLeaveView (s : State) : exec .reqLeaveView s = .next (leaveView s) := rfl

theorem leaveView_of_no_session {s : State} (hcal : s.calStep = .idle) (hthr : s.thrCycle = .c0) :
    leaveView s = s := by
  rw [leaveView_eq, if_pos ⟨hcal, hthr⟩]

/-- A radio session alone: no escape byte. -/
theorem leaveView_of_radio_session {s : State} (hcal : s.calStep ≠ .idle) (hthr : s.thrCycle = .c0) :
    leaveView s =
      { s with
        calStep := .idle
        calRemaining := 0#32
        out := s.out ++ (s.cfg.revertSeq.flatMap s.cfg.tokenBytes).map .tx } := by
  rw [leaveView_eq, if_neg fun h => hcal h.1, if_pos hthr, List.nil_append, ← hthr]
  rfl

/-- A throttle session, with or without a radio session: the escape byte goes first. -/
theorem leaveView_of_throttle_session {s : State} (hthr : s.thrCycle ≠ .c0) :
    leaveView s =
      { s with
        calStep := .idle
        calRemaining := 0#32
        thrCycle := .c0
        out := s.out ++ .tx 0x00#8 :: (s.cfg.revertSeq.flatMap s.cfg.tokenBytes).map .tx } := by
  rw [leaveView_eq, if_neg fun h => hthr h.2, if_neg hthr]
  rfl

/-- Settles O29, by the sessions in progress. -/
theorem leaveViewCancelsSessions : Obligations.LeaveViewCancelsSessions := by
  intro s
  rw [exec_reqLeaveView]
  exact ⟨fun hcal hthr => congrArg _ (leaveView_of_no_session hcal hthr),
    fun hcal hthr => congrArg _ (leaveView_of_radio_session hcal hthr),
    fun hthr => congrArg _ (leaveView_of_throttle_session hthr)⟩

/-- Settles O30. -/
theorem idleTickDoesNothing : Obligations.IdleTickDoesNothing :=
  fun _ h => ⟨(exec_decodeCal h).trans (congrArg _ (calTick_of_idle h)), calTick_of_idle h⟩

/-- The budget of a session fits the countdown (00_scope.md R13). -/
theorem toNat_ofNat_samplingTicks {c : Config} (h : c.CalOk) :
    (BitVec.ofNat 32 c.samplingTicks).toNat = c.samplingTicks := by
  obtain ⟨-, -, hfits, -⟩ := h
  rw [BitVec.toNat_ofNat, Nat.mod_eq_of_lt hfits]

/-- Settles O31: `calResetTick_eq` gives every field, and a cleared sample has the values of R40. -/
theorem resetTickClearsTheSamples : Obligations.ResetTickClearsTheSamples := by
  intro s h hcfg
  have hphase := calTick_of_reset h
  refine ⟨calResetTick s, (exec_decodeCal h).trans (congrArg _ hphase), hphase, calResetTick_eq s,
    toNat_ofNat_samplingTicks hcfg, fun ch => ?_⟩
  have hcleared : (calResetTick s).cal.get ch = CalSample.cleared := Bank.get_fill _ ch
  rw [hcleared]
  exact CalSample.cleared_values

/-! ### The Sampling tick (R169 to R172) -/

theorem sampleWindow_of_gt {s : State} (h : s.cfg.captureAt < s.calRemaining.toNat) : sampleWindow s = s := by
  rw [sampleWindow, if_neg h.ne', if_neg h.not_gt]

theorem sampleWindow_of_eq {s : State} (h : s.calRemaining.toNat = s.cfg.captureAt) :
    sampleWindow s = capture s := by
  rw [sampleWindow, if_pos h]

theorem sampleWindow_of_lt {s : State} (h : s.calRemaining.toNat < s.cfg.captureAt) : sampleWindow s = sample s := by
  rw [sampleWindow, if_neg h.ne, if_pos h]

@[simp] theorem capture_cal_get (s : State) (ch : Fin 8) :
    (capture s).cal.get ch = { s.cal.get ch with start := s.channel ch } := Bank.get_ofFn _ ch

@[simp] theorem sample_cal_get (s : State) (ch : Fin 8) :
    (sample s).cal.get ch = sampleChannel s.cfg.moveThreshold (s.cal.get ch) (s.channel ch) := Bank.get_ofFn _ ch

/-- The running minimum and maximum and the sticky flag of R171. -/
theorem sampledInto_sampleChannel (threshold : Nat) (x : CalSample) (cur : Half) :
    SampledInto threshold x cur (sampleChannel threshold x cur) := by
  refine ⟨rfl, ?moved, ?min, ?max⟩
  case moved => simp [sampleChannel, movedAfter, deviates]
  case min =>
    rw [sampleChannel, apply_ite BitVec.toInt, min_comm, min_def_lt]
  case max =>
    rw [sampleChannel, apply_ite BitVec.toInt, max_def_lt]

theorem toNat_countdown {r : Word} (h : 1 ≤ r.toNat) : (r - 1#32).toNat + 1 = r.toNat := by bv_omega

/-- The countdown reaches 0 exactly from 1. -/
theorem countdown_eq_zero_iff (r : Word) : r - 1#32 = 0#32 ↔ r.toNat = 1 := by
  constructor <;> intro h <;> bv_omega

/-- Settles O32: `calSamplingTick_eq` gives every field, with the samples those of the window that the countdown
is in. -/
theorem samplingTickFollowsTheCountdown : Obligations.SamplingTickFollowsTheCountdown := by
  intro s h hpos
  have hphase := calTick_of_sampling h
  have hcal : (calSamplingTick s).cal = (sampleWindow s).cal := by rw [calSamplingTick_eq]
  refine ⟨calSamplingTick s, (exec_decodeCal h).trans (congrArg _ hphase), hphase, ?frame, ?remaining, ?step,
    fun habove => ?above, fun hat ch => ?capture, fun hbelow ch => ?sample⟩
  case frame => rw [calSamplingTick_eq]
  case remaining => rw [calSamplingTick_eq]; exact toNat_countdown hpos
  case step => simp only [calSamplingTick_eq, countdown_eq_zero_iff, h]
  case above => rw [hcal, sampleWindow_of_gt habove]
  case capture => rw [hcal, sampleWindow_of_eq hat, capture_cal_get]
  case sample =>
    rw [hcal, sampleWindow_of_lt hbelow, sample_cal_get]
    exact sampledInto_sampleChannel _ _ _

/-! ### The arithmetic of Apply (R174 to R176) -/

/-- Settles O35: the quotient of `2n + d` by `2d` lies between the two integers that the floor gives. -/
theorem roundDivIsNearestHalfUp : Obligations.RoundDivIsNearestHalfUp := by
  intro n d _ hd
  have hd2 : 0 < 2 * d := by omega
  have hlow : 2 * d * roundDiv n d ≤ 2 * n + d := Int.mul_ediv_self_le hd2.ne'
  have hhigh : 2 * n + d < 2 * d * roundDiv n d + 2 * d := Int.lt_mul_ediv_self_add hd2
  constructor <;> linarith

/-- The two bounds of a quotient rounded to the nearest, for the range of a moved channel. -/
theorem roundDiv_mem {r : Int} (hpos : 0 < r) (hmax : r ≤ 65535) :
    32 ≤ roundDiv 2097152 r ∧ roundDiv 2097152 r ≤ 2097152 := by
  have hr2 : 0 < 2 * r := by omega
  constructor
  · rw [roundDiv, Int.le_ediv_iff_mul_le hr2]
    omega
  · rw [roundDiv, ← Int.lt_add_one_iff, Int.ediv_lt_iff_lt_mul hr2]
    omega

/-- The range of a 16-bit sample with minimum below maximum. -/
theorem CalSample.range_mem {x : CalSample} (h : x.min.toInt < x.max.toInt) : 0 < x.range ∧ x.range ≤ 65535 := by
  have hmin := BitVec.le_toInt x.min
  have hmax := BitVec.toInt_lt (x := x.max)
  rw [CalSample.range]
  omega

theorem newScale_of_neg {old : Word} (h : old.toInt < 0) (c : Config) (x : CalSample) :
    newScale c x old = BitVec.ofInt 32 (-roundDiv c.scaleNum x.range) := by
  rw [newScale, if_pos h]

theorem newScale_of_nonneg {old : Word} (h : 0 ≤ old.toInt) (c : Config) (x : CalSample) :
    newScale c x old = BitVec.ofInt 32 (roundDiv c.scaleNum x.range) := by
  rw [newScale, if_neg h.not_gt]

/-- Settles O34: the magnitude is in its bounds, so neither sign leaves the 32 bits. -/
theorem newScaleKeepsTheSign : Obligations.NewScaleKeepsTheSign := by
  intro c x old hnum hlt
  obtain ⟨hpos, hmax⟩ := CalSample.range_mem hlt
  obtain ⟨hlow, hhigh⟩ := roundDiv_mem hpos hmax
  have hcast : (c.scaleNum : Int) = 2097152 := by rw [hnum]; rfl
  refine ⟨fun hneg => ?reversed, fun hnonneg => ?normal, hlow, hhigh⟩
  case reversed =>
    rw [newScale_of_neg hneg, hcast, BitVec.toInt_ofInt_eq_self (by decide) (by omega) (by omega)]
  case normal =>
    rw [newScale_of_nonneg hnonneg, hcast, BitVec.toInt_ofInt_eq_self (by decide) (by omega) (by omega)]

theorem truncDiv2_eq_tdiv (x : Int) : truncDiv2 x = x.tdiv 2 := by
  rw [truncDiv2]
  split
  case isTrue h => exact (Int.tdiv_eq_ediv_of_nonneg h).symm
  case isFalse h =>
    have hneg : 0 ≤ -x := by omega
    rw [← Int.tdiv_eq_ediv_of_nonneg hneg, Int.neg_tdiv, neg_neg]

theorem newCenter_eq (x : CalSample) : newCenter x = BitVec.ofInt 16 ((x.min.toInt + x.max.toInt).tdiv 2) := by
  rw [newCenter, truncDiv2_eq_tdiv]

theorem truncDiv2_mem {x : Int} (hlow : -65536 ≤ x) (hhigh : x ≤ 65534) :
    -32768 ≤ truncDiv2 x ∧ truncDiv2 x ≤ 32767 := by
  rw [truncDiv2]
  split <;> omega

/-- Settles O36: half the sum of two 16-bit values fits 16 bits. -/
theorem newCenterIsTheTruncatedMean : Obligations.NewCenterIsTheTruncatedMean := by
  intro x
  have hmin := BitVec.le_toInt x.min
  have hmin' := BitVec.toInt_lt (x := x.min)
  have hmax := BitVec.le_toInt x.max
  have hmax' := BitVec.toInt_lt (x := x.max)
  obtain ⟨hlow, hhigh⟩ := truncDiv2_mem (x := x.min.toInt + x.max.toInt) (by omega) (by omega)
  rw [← truncDiv2_eq_tdiv, newCenter, BitVec.toInt_ofInt_eq_self (by decide) (by omega) (by omega)]

/-! ### The Apply tick (R173, R177, R178) -/

/-- What one channel of the Apply tick does to `PREF`. -/
def applyMemory (c : Config) (cal : Bank CalSample) (m : Memory) (ch : Fin 8) : Memory :=
  if (cal.get ch).updates then writeChannel c (cal.get ch) ch m else m

theorem updates_iff (x : CalSample) : x.updates ↔ x.moved = true ∧ x.range ≠ 0 := by
  rw [CalSample.range, sub_ne_zero]

theorem applyMemory_of_updates {cal : Bank CalSample} {ch : Fin 8} (h : (cal.get ch).updates) (c : Config)
    (m : Memory) : applyMemory c cal m ch = writeChannel c (cal.get ch) ch m := if_pos h

theorem applyMemory_of_not_updates {cal : Bank CalSample} {ch : Fin 8} (h : ¬(cal.get ch).updates) (c : Config)
    (m : Memory) : applyMemory c cal m ch = m := if_neg h

/-- One channel writes `PREF` and the model's trace only. -/
theorem applyChannel_writes (ch : Fin 8) (s : State) :
    ∃ cs, applyChannel ch s = { s with pref := applyMemory s.cfg s.cal s.pref ch, conds := cs } := by
  obtain ⟨hmoved, e⟩ | ⟨-, hrange, e⟩ | ⟨hmoved, hrange, e⟩ := applyChannel_cases ch s
  · have hnot : ¬(s.cal.get ch).updates := by simp [hmoved]
    rw [e, applyMemory_of_not_updates hnot]
    exact ⟨_, rfl⟩
  · have hnot : ¬(s.cal.get ch).updates := fun h => ((updates_iff _).mp h).2 hrange
    rw [e, applyMemory_of_not_updates hnot]
    exact ⟨_, rfl⟩
  · rw [e, applyMemory_of_updates ((updates_iff _).mpr ⟨hmoved, hrange⟩)]
    exact ⟨_, rfl⟩

/-- The channels of the Apply tick write `PREF` one after another. -/
theorem foldl_applyChannel_pref (chs : List (Fin 8)) (s : State) :
    (chs.foldl (fun s ch => applyChannel ch s) s).pref = chs.foldl (applyMemory s.cfg s.cal) s.pref := by
  induction chs generalizing s with
  | nil => rfl
  | cons ch chs ih =>
    obtain ⟨cs, e⟩ := applyChannel_writes ch s
    rw [List.foldl_cons, List.foldl_cons, ih, e]

theorem applyChannels_pref (s : State) :
    (applyChannels s).pref = channels.foldl (applyMemory s.cfg s.cal) s.pref := foldl_applyChannel_pref channels s

theorem wf_writeChannel (c : Config) (x : CalSample) (ch : Fin 8) {m : Memory} (hm : m.wf) :
    (writeChannel c x ch m).wf := Memory.wf_writeBytes (Memory.wf_writeBytes hm _ _) _ _

theorem wf_applyMemory (c : Config) (cal : Bank CalSample) (ch : Fin 8) {m : Memory} (hm : m.wf) :
    (applyMemory c cal m ch).wf := by
  rw [applyMemory]
  split
  · exact wf_writeChannel c _ ch hm
  · exact hm

theorem wf_foldl_applyMemory (c : Config) (cal : Bank CalSample) (chs : List (Fin 8)) {m : Memory} (hm : m.wf) :
    (chs.foldl (applyMemory c cal) m).wf := by
  induction chs generalizing m with
  | nil => exact hm
  | cons ch chs ih => exact ih (wf_applyMemory c cal ch hm)

/-- Offset `a` is in neither field of channel `ch` (30_encoding.md R79). -/
abbrev OutsideFields (c : Config) (ch : Fin 8) (a : Nat) : Prop :=
  (a < c.scaleOff.get ch ∨ c.scaleOff.get ch + 4 ≤ a) ∧ (a < c.centerOff.get ch ∨ c.centerOff.get ch + 2 ≤ a)

theorem read_writeChannel_of_outside {c : Config} {ch : Fin 8} {a : Nat} (h : OutsideFields c ch a) (x : CalSample)
    {m : Memory} (hm : m.wf) : (writeChannel c x ch m).read a = m.read a := by
  obtain ⟨hscale, hcenter⟩ := h
  rw [writeChannel, Memory.read_writeBytes (Memory.wf_writeBytes hm _ _), length_bytesOfHalf, if_neg (by omega),
    Memory.read_writeBytes hm, length_bytesOfWord, if_neg (by omega)]

/-- The channels write the fields of the updated ones only. -/
theorem read_foldl_applyMemory {c : Config} {cal : Bank CalSample} {a : Nat} {chs : List (Fin 8)}
    (h : ∀ ch ∈ chs, (cal.get ch).updates → OutsideFields c ch a) {m : Memory} (hm : m.wf) :
    (chs.foldl (applyMemory c cal) m).read a = m.read a := by
  induction chs generalizing m with
  | nil => rfl
  | cons ch chs ih =>
    have hfirst : (applyMemory c cal m ch).read a = m.read a := by
      by_cases hup : (cal.get ch).updates
      · rw [applyMemory_of_updates hup]
        exact read_writeChannel_of_outside (h ch List.mem_cons_self hup) _ hm
      · rw [applyMemory_of_not_updates hup]
    rw [List.foldl_cons, ih (fun d hd => h d (List.mem_cons_of_mem ch hd)) (wf_applyMemory c cal ch hm), hfirst]

theorem Memory.half_congr {m n : Memory} {a : Nat} (h : ∀ i, a ≤ i → i < a + 2 → m.read i = n.read i) :
    m.half a = n.half a := by
  rw [Memory.half, Memory.half, h a (by omega) (by omega), h (a + 1) (by omega) (by omega)]

theorem Memory.word_congr {m n : Memory} {a : Nat} (h : ∀ i, a ≤ i → i < a + 4 → m.read i = n.read i) :
    m.word a = n.word a := by
  rw [Memory.word, Memory.word, h a (by omega) (by omega), h (a + 1) (by omega) (by omega),
    h (a + 2) (by omega) (by omega), h (a + 3) (by omega) (by omega)]

/-- The two fields of one channel lie outside those of every other (20_memory.md R56). -/
theorem outsideFields_of_ne {c : Config} (hc : c.PrefOk) {ch d : Fin 8} (hne : ch ≠ d) {a : Nat}
    (h : c.scaleOff.get ch ≤ a ∧ a < c.scaleOff.get ch + 4 ∨ c.centerOff.get ch ≤ a ∧ a < c.centerOff.get ch + 2) :
    OutsideFields c d a := by
  obtain ⟨hscales, hcenters, hboth⟩ := fields_disjoint hc
  have := hscales ch d hne
  have := hcenters ch d hne
  have := hboth ch d
  have := hboth d ch
  omega

/-- The channels other than `ch` leave its two fields. -/
theorem fields_foldl_applyMemory_of_notMem {c : Config} (hc : c.PrefOk) {cal : Bank CalSample} {ch : Fin 8}
    {chs : List (Fin 8)} (h : ch ∉ chs) {m : Memory} (hm : m.wf) :
    (chs.foldl (applyMemory c cal) m).word (c.scaleOff.get ch) = m.word (c.scaleOff.get ch) ∧
      (chs.foldl (applyMemory c cal) m).half (c.centerOff.get ch) = m.half (c.centerOff.get ch) := by
  have hne : ∀ d ∈ chs, ch ≠ d := fun d hd e => h (e ▸ hd)
  constructor
  · exact Memory.word_congr fun i hlo hhi =>
      read_foldl_applyMemory (fun d hd _ => outsideFields_of_ne hc (hne d hd) (.inl ⟨hlo, hhi⟩)) hm
  · exact Memory.half_congr fun i hlo hhi =>
      read_foldl_applyMemory (fun d hd _ => outsideFields_of_ne hc (hne d hd) (.inr ⟨hlo, hhi⟩)) hm

theorem fields_writeChannel {c : Config} (hc : c.PrefOk) (x : CalSample) (ch : Fin 8) {m : Memory} (hm : m.wf) :
    (writeChannel c x ch m).word (c.scaleOff.get ch) = newScale c x (m.word (c.scaleOff.get ch)) ∧
      (writeChannel c x ch m).half (c.centerOff.get ch) = newCenter x := by
  obtain ⟨-, -, hboth⟩ := fields_disjoint hc
  have hwf := Memory.wf_writeBytes hm (c.scaleOff.get ch) (bytesOfWord (newScale c x (prefScale c m ch)))
  constructor
  · rw [writeChannel, Memory.word_writeBytes_of_disjoint hwf (hboth ch ch), Memory.word_writeBytes hm, prefScale]
  · rw [writeChannel, Memory.half_writeBytes hwf]

/-- An updated channel has its new scale, from the one stored before, and its new center: the list is cut at the
channel, whose fields neither part touches. -/
theorem fields_foldl_applyMemory {c : Config} (hc : c.PrefOk) {cal : Bank CalSample} {ch : Fin 8}
    {chs : List (Fin 8)} (hmem : ch ∈ chs) (hnodup : chs.Nodup) (hup : (cal.get ch).updates) {m : Memory}
    (hm : m.wf) :
    (chs.foldl (applyMemory c cal) m).word (c.scaleOff.get ch) =
        newScale c (cal.get ch) (m.word (c.scaleOff.get ch)) ∧
      (chs.foldl (applyMemory c cal) m).half (c.centerOff.get ch) = newCenter (cal.get ch) := by
  obtain ⟨before, after, rfl⟩ := List.append_of_mem hmem
  obtain ⟨hbefore, hafter⟩ : ch ∉ before ∧ ch ∉ after := by
    rw [List.nodup_middle, List.nodup_cons, List.mem_append, not_or] at hnodup
    exact hnodup.1
  have hm₁ := wf_foldl_applyMemory c cal before hm
  obtain ⟨hscale₁, -⟩ := fields_foldl_applyMemory_of_notMem hc (cal := cal) hbefore hm
  obtain ⟨hscale₂, hcenter₂⟩ := fields_writeChannel hc (cal.get ch) ch hm₁
  obtain ⟨hscale₃, hcenter₃⟩ :=
    fields_foldl_applyMemory_of_notMem hc (cal := cal) hafter (wf_writeChannel c (cal.get ch) ch hm₁)
  rw [List.foldl_append, List.foldl_cons, applyMemory_of_updates hup]
  exact ⟨by rw [hscale₃, hscale₂, hscale₁], by rw [hcenter₃, hcenter₂]⟩

/-- The stamp leaves every field of the channel table (00_scope.md R11). -/
theorem fields_stamp {c : Config} (hc : c.PrefOk) (ch : Fin 8) {m : Memory} (hm : m.wf) :
    (stamp c m).word (c.scaleOff.get ch) = m.word (c.scaleOff.get ch) ∧
      (stamp c m).half (c.centerOff.get ch) = m.half (c.centerOff.get ch) := by
  obtain ⟨hscale, hcenter⟩ := fields_before_checksum hc ch
  exact ⟨Memory.word_writeBytes_of_disjoint hm (.inl hscale), Memory.half_writeBytes_of_disjoint hm (.inl hcenter)⟩

theorem nodup_channels : channels.Nodup := by decide

/-- Settles O33: `calApplyTick_eq` gives every field, with `PREF` the stamp of what the eight channels write. -/
theorem applyTickWritesMovedChannels : Obligations.ApplyTickWritesMovedChannels := by
  intro s h hc hm
  have hphase := calTick_of_apply h
  have hpref : (calApplyTick s).pref = stamp s.cfg (channels.foldl (applyMemory s.cfg s.cal) s.pref) := by
    rw [calApplyTick_eq, applyChannels_pref]
  have hwf := wf_foldl_applyMemory s.cfg s.cal channels hm
  refine ⟨calApplyTick s, (exec_decodeCal h).trans (congrArg _ hphase), hphase, ?frame, fun ch hup => ?fields,
    fun a ha hout => ?bytes, ?valid⟩
  case frame => rw [calApplyTick_eq]
  case fields =>
    obtain ⟨hscale, hcenter⟩ := fields_foldl_applyMemory hc (mem_channels ch) nodup_channels hup hm
    obtain ⟨hscale', hcenter'⟩ := fields_stamp hc ch hwf
    rw [hpref, hscale', hscale, hcenter', hcenter]
    exact ⟨rfl, newCenter_eq _⟩
  case bytes =>
    rw [← ckOff_add_four hc] at ha
    rw [hpref, read_stamp_of_ne s.cfg hwf ha, read_foldl_applyMemory (fun ch _ => hout ch) hm]
  case valid => rw [hpref]; exact validate_stamp s.cfg hwf

end Sys2Proof.Machine
end

section
/-! SUPPORT. Every step keeps the invariant (20_memory.md R50; 10_state.md R32, R35; 43_radio_cal.md R181): one lemma
for each part an operation can write, then the operations, then the step. -/

namespace Sys2Proof.Machine

/-! ### Events that leave the `MSG` port at rest -/

/-- The events leave a `MSG` port that is at rest at rest (R35). -/
def LeavesMsgAtRest (es : List OutEvent) : Prop := es.foldl msgAfter .none = .none

theorem leavesMsgAtRest_append {es fs : List OutEvent} (hes : LeavesMsgAtRest es) (hfs : LeavesMsgAtRest fs) :
    LeavesMsgAtRest (es ++ fs) := by
  rw [LeavesMsgAtRest, List.foldl_append, hes]
  exact hfs

theorem leavesMsgAtRest_txEvents (bs : List Byte) : LeavesMsgAtRest (txEvents bs) :=
  foldl_msgAfter_txEvents .none bs

/-- An abort ends with the message cleared (44_throttle_cal.md R192). -/
theorem leavesMsgAtRest_abortEvents (c : Config) (m : Msg) : LeavesMsgAtRest (abortEvents c m) :=
  leavesMsgAtRest_append (leavesMsgAtRest_txEvents _) rfl

theorem leavesMsgAtRest_handlingEvents (c : Config) (k : Condition) : LeavesMsgAtRest (handlingEvents c k) := by
  cases k with
  | checksumMismatch => exact leavesMsgAtRest_txEvents _
  | interlockProps | interlockBattery => exact leavesMsgAtRest_abortEvents c _
  | degenerateRange _ | unknownMode | reservedRequest => rfl

theorem leavesMsgAtRest_chunkEvents (c : Config) (m : Memory) : LeavesMsgAtRest (chunkEvents c m) := by
  refine foldl_msgAfter_of_no_msg .none fun e he k => ?_
  obtain ⟨j, -, he⟩ := List.mem_flatMap.mp he
  rcases List.mem_append.mp he with he | he
  · obtain ⟨b, -, rfl⟩ := List.mem_map.mp he
    nofun
  · obtain rfl := List.mem_singleton.mp he
    nofun

theorem leavesMsgAtRest_uploadEvents (c : Config) (m : Memory) : LeavesMsgAtRest (uploadEvents c m) :=
  leavesMsgAtRest_append
    (leavesMsgAtRest_append (leavesMsgAtRest_append (leavesMsgAtRest_txEvents _) rfl)
      (leavesMsgAtRest_chunkEvents c m))
    (leavesMsgAtRest_txEvents _)

/-! ### One part of the state written

The other fields (`rxq`, `pref_valid`, `thr_cycle`, the ports and the model's own) are in no part of the invariant. -/

theorem State.Inv.emit {s : State} (h : s.Inv) {es : List OutEvent} (hes : LeavesMsgAtRest es) :
    (s.emit es).Inv := by
  obtain ⟨hcfg, hspaces, hcount, hsamples, hbeat, hmsg⟩ := h
  refine ⟨hcfg, hspaces, hcount, hsamples, hbeat, ?_⟩
  rw [State.msgPort] at hmsg ⊢
  rw [State.emit_out, List.foldl_append, hmsg]
  exact hes

theorem State.Inv.sendToken {s : State} (h : s.Inv) (t : Token) : (s.sendToken t).Inv :=
  h.emit (leavesMsgAtRest_txEvents _)

theorem State.Inv.takeCondition {s : State} (h : s.Inv) (c : Condition) :
    (Machine.takeCondition c s).Inv := by
  rw [takeCondition_eq]
  exact h.emit (leavesMsgAtRest_handlingEvents s.cfg c)

/-- `PREF` replaced by a canonical record inside its size. -/
theorem State.Inv.withPref {s : State} (h : s.Inv) {m : Memory} (hwf : m.wf) (hbelow : m.below s.cfg.prefSize) :
    ({ s with pref := m } : State).Inv := by
  obtain ⟨hcfg, ⟨-, -, hrecs⟩, hrest⟩ := h
  exact ⟨hcfg, ⟨hwf, hbelow, hrecs⟩, hrest⟩

theorem State.Inv.withRecord {s : State} (h : s.Inv) (k : RecKind) {m : Memory} (hwf : m.wf)
    (hbelow : m.below (s.recordSize k)) : (s.setRecord k m).Inv := by
  obtain ⟨hcfg, ⟨hpref, hprefBelow, hrecs⟩, hrest⟩ := h
  refine ⟨hcfg, ⟨hpref, hprefBelow, fun i hi => ?_⟩, hrest⟩
  rw [State.setRecord_recs, Bank.get_set]
  split
  case isTrue hik => exact hik ▸ ⟨hwf, hbelow⟩
  case isFalse => exact hrecs i hi

theorem State.Inv.withCountdown {s : State} (h : s.Inv) {k : CalStep} {r : Word}
    (hmax : r.toNat ≤ s.cfg.samplingTicks) (hsampling : k = .sampling → 1 ≤ r.toNat)
    (happly : k = .apply → r.toNat = 0) : ({ s with calStep := k, calRemaining := r } : State).Inv := by
  obtain ⟨hcfg, hspaces, -, hrest⟩ := h
  exact ⟨hcfg, hspaces, ⟨hmax, hsampling, happly⟩, hrest⟩

/-- `cal_step` at Idle or Reset, where the countdown has its upper bound only. -/
theorem State.Inv.withCalStep {s : State} (h : s.Inv) {k : CalStep} (hsampling : k ≠ .sampling)
    (happly : k ≠ .apply) : ({ s with calStep := k } : State).Inv := by
  obtain ⟨-, -, ⟨hmax, -, -⟩, -⟩ := id h
  exact h.withCountdown hmax (fun e => absurd e hsampling) fun e => absurd e happly

theorem State.Inv.withCal {s : State} (h : s.Inv) {cal : Bank CalSample}
    (hsamples : ∀ ch, (cal.get ch).moved = true → (cal.get ch).min.toInt ≤ (cal.get ch).max.toInt) :
    ({ s with cal := cal } : State).Inv := by
  obtain ⟨hcfg, hspaces, hcount, -, hrest⟩ := h
  exact ⟨hcfg, hspaces, hcount, fun ch _ => hsamples ch, hrest⟩

theorem State.Inv.withHbCount {s : State} (h : s.Inv) {n : Half} (hn : n.toNat < s.cfg.heartbeatPeriod) :
    ({ s with hbCount := n } : State).Inv := by
  obtain ⟨hcfg, hspaces, hcount, hsamples, -, hmsg⟩ := h
  exact ⟨hcfg, hspaces, hcount, hsamples, hn, hmsg⟩

/-! ### The parts of a valid configuration that the operations use -/

theorem State.Inv.prefOk {s : State} (h : s.Inv) : s.cfg.PrefOk := by
  obtain ⟨⟨-, -, -, hpref, -⟩, -⟩ := h
  exact hpref

theorem State.Inv.calOk {s : State} (h : s.Inv) : s.cfg.CalOk := by
  obtain ⟨⟨-, -, -, -, -, hcal, -⟩, -⟩ := h
  exact hcal

theorem State.Inv.heartbeatOk {s : State} (h : s.Inv) : s.cfg.HeartbeatOk := by
  obtain ⟨⟨-, -, -, -, -, -, hbeat⟩, -⟩ := h
  exact hbeat

/-! ### The framer and the drain -/

theorem State.Inv.decodeRec {s : State} (h : s.Inv) (k : RecKind) (payload : List Byte) :
    (Machine.decodeRec k payload s).Inv :=
  (h.withRecord k (Memory.wf_ofBytes _ _) (Memory.below_ofBytes _ _)).emit rfl

theorem State.Inv.settingsFrame {s : State} (h : s.Inv) (payload : List Byte) :
    (Machine.settingsFrame payload s).Inv := by
  rw [settingsFrame_eq]
  split
  · exact (h.withPref (Memory.wf_ofBytes _ payload) (Memory.below_ofBytes _ _)).emit (es := [.notify .settings]) rfl
  · exact h.emit (leavesMsgAtRest_append (leavesMsgAtRest_txEvents _) rfl)

theorem State.Inv.dispatch {s : State} (h : s.Inv) (p : Packet) : (Machine.dispatch p s).Inv := by
  obtain ⟨k, -, e⟩ | ⟨-, e⟩ | ⟨-, e⟩ := dispatch_cases p s <;> rw [e]
  · exact h.decodeRec k p.payload
  · exact h.settingsFrame p.payload
  · exact h.takeCondition .unknownMode

theorem State.Inv.drain {s : State} (h : s.Inv) : (Machine.drain s).Inv :=
  drain_induction (P := State.Inv) h fun u p rest hu _ =>
    have hqueue : ({ u with rxq := rest } : State).Inv := hu
    hqueue.dispatch p

/-! ### The upload and the calibration phase -/

/-- The stamp lies inside `PREF` (00_scope.md R11). -/
theorem State.Inv.stampPref {s : State} (h : s.Inv) : ({ s with pref := stamp s.cfg s.pref } : State).Inv := by
  have hend := ckOff_add_four h.prefOk
  obtain ⟨-, ⟨hwf, hbelow, -⟩, -⟩ := id h
  exact h.withPref (wf_stamp s.cfg hwf) (Memory.below_writeBytes hbelow _ _ (by rw [length_bytesOfWord, hend]))

theorem State.Inv.upload {s : State} (h : s.Inv) : (Machine.upload s).Inv :=
  h.stampPref.emit (leavesMsgAtRest_uploadEvents _ _)

theorem State.Inv.calResetTick {s : State} (h : s.Inv) : (Machine.calResetTick s).Inv := by
  have hbudget := toNat_ofNat_samplingTicks h.calOk
  obtain ⟨hcapture, hticks, -, -⟩ := h.calOk
  have hcleared : ({ s with cal := Bank.fill CalSample.cleared } : State).Inv := h.withCal fun ch hmoved => by
    simp [CalSample.cleared] at hmoved
  exact (hcleared.withCountdown (k := .sampling) hbudget.le (fun _ => by omega) nofun).sendToken .resetRadio

/-- The running minimum and maximum enclose the sample just taken. -/
theorem sampleChannel_min_le_max (threshold : Nat) (x : CalSample) (cur : Half) :
    (sampleChannel threshold x cur).min.toInt ≤ (sampleChannel threshold x cur).max.toInt := by
  obtain ⟨-, -, hmin, hmax⟩ := sampledInto_sampleChannel threshold x cur
  rw [hmin, hmax]
  exact (min_le_right _ _).trans (le_max_right _ _)

theorem State.Inv.sampleWindow {s : State} (h : s.Inv) : (Machine.sampleWindow s).Inv := by
  rcases Nat.lt_trichotomy s.calRemaining.toNat s.cfg.captureAt with hlt | heq | hgt
  · rw [sampleWindow_of_lt hlt]
    refine h.withCal fun ch _ => ?_
    rw [Bank.get_ofFn]
    exact sampleChannel_min_le_max _ _ _
  · rw [sampleWindow_of_eq heq]
    obtain ⟨-, -, -, hsamples, -⟩ := id h
    refine h.withCal fun ch hmoved => ?_
    rw [Bank.get_ofFn] at hmoved ⊢
    exact hsamples ch (mem_channels ch) hmoved
  · rwa [sampleWindow_of_gt hgt]

theorem countdown_eq (s : State) :
    Machine.countdown s =
      { s with
        calStep := if s.calRemaining.toNat = 1 then .apply else s.calStep
        calRemaining := s.calRemaining - 1#32 } := by
  simp only [Machine.countdown, countdown_eq_zero_iff]

/-- One Sampling tick less, and Apply with the countdown at 0 (43_radio_cal.md R172). -/
theorem State.Inv.countdown {s : State} (h : s.Inv) (hstep : s.calStep = .sampling) :
    (Machine.countdown s).Inv := by
  obtain ⟨-, -, ⟨hmax, hpos, -⟩, -⟩ := id h
  have hless := toNat_countdown (hpos hstep)
  rw [countdown_eq, hstep]
  split
  case isTrue hlast => exact h.withCountdown (by omega) nofun fun _ => by omega
  case isFalse hmore => exact h.withCountdown (by omega) (fun _ => by omega) nofun

theorem State.Inv.calSamplingTick {s : State} (h : s.Inv) (hstep : s.calStep = .sampling) :
    (Machine.calSamplingTick s).Inv :=
  h.sampleWindow.countdown (by rw [sampleWindow_writes, hstep])

theorem below_writeChannel {c : Config} (hc : c.PrefOk) (x : CalSample) (ch : Fin 8) {m : Memory}
    (h : m.below c.prefSize) : (writeChannel c x ch m).below c.prefSize := by
  have hend := ckOff_add_four hc
  obtain ⟨hscale, hcenter⟩ := fields_before_checksum hc ch
  refine Memory.below_writeBytes (Memory.below_writeBytes h _ _ ?_) _ _ ?_
  · rw [length_bytesOfWord]; omega
  · rw [length_bytesOfHalf]; omega

theorem State.Inv.applyChannel {s : State} (h : s.Inv) (ch : Fin 8) : (Machine.applyChannel ch s).Inv := by
  obtain ⟨-, ⟨hwf, hbelow, -⟩, -⟩ := id h
  obtain ⟨-, e⟩ | ⟨-, -, e⟩ | ⟨-, -, e⟩ := applyChannel_cases ch s <;> rw [e]
  · exact h
  · exact h
  · exact h.withPref (wf_writeChannel s.cfg _ ch hwf) (below_writeChannel h.prefOk _ ch hbelow)

theorem State.Inv.calApplyTick {s : State} (h : s.Inv) : (Machine.calApplyTick s).Inv := by
  have hchannels : (applyChannels s).Inv :=
    applyChannels_induction (P := State.Inv) h fun ch _ hu => hu.applyChannel ch
  exact hchannels.upload.withCalStep nofun nofun

theorem State.Inv.calTick {s : State} (h : s.Inv) : (Machine.calTick s).Inv := by
  cases hstep : s.calStep with
  | idle => rwa [calTick_of_idle hstep]
  | reset => rw [calTick_of_reset hstep]; exact h.calResetTick
  | sampling => rw [calTick_of_sampling hstep]; exact h.calSamplingTick hstep
  | apply => rw [calTick_of_apply hstep]; exact h.calApplyTick

theorem State.Inv.leaveView {s : State} (h : s.Inv) : (Machine.leaveView s).Inv := by
  rw [leaveView_eq]
  split
  case isTrue => exact h
  case isFalse =>
    have hidle : ({ s with calStep := .idle, calRemaining := 0#32 } : State).Inv :=
      h.withCountdown (Nat.zero_le _) nofun nofun
    refine hidle.emit (leavesMsgAtRest_append ?_ (leavesMsgAtRest_txEvents _))
    split
    · rfl
    · exact leavesMsgAtRest_txEvents _

/-! ### The heartbeat and the throttle sequencer -/

/-- The counter stays below the period, so it does not wrap (10_state.md R32). -/
theorem State.Inv.beat {s : State} (h : s.Inv) : (Machine.beat s).Inv := by
  obtain ⟨hperiod, hfits⟩ := h.heartbeatOk
  obtain ⟨-, -, -, -, hcount, -⟩ := id h
  obtain ⟨-, e⟩ | ⟨hne, e⟩ := beat_cases s <;> rw [e]
  · exact (h.withHbCount (n := 0#16) hperiod).sendToken .heartbeat
  · have hbelow : (s.hbCount + 1#16).toNat < s.cfg.heartbeatPeriod := by bv_omega
    exact h.withHbCount hbelow

theorem State.Inv.thrStart {s : State} (h : s.Inv) (ack : Bool) : (Machine.thrStart ack s).Inv := by
  cases ack with
  | true => exact h.sendToken .throttleCal
  | false => exact h.takeCondition .interlockProps

theorem State.Inv.thrMaxThrottle {s : State} (h : s.Inv) : (Machine.thrMaxThrottle s).Inv := by
  rw [Machine.thrMaxThrottle]
  split
  · exact h.sendToken .thrMax
  · exact h.takeCondition .interlockBattery

theorem State.Inv.thrMinThrottle {s : State} (h : s.Inv) : (Machine.thrMinThrottle s).Inv := h.sendToken .thrEsc

/-- The instructions are shown and cleared again in the same step (44_throttle_cal.md R190). -/
theorem State.Inv.thrFinish {s : State} (h : s.Inv) : (Machine.thrFinish s).Inv :=
  (h.sendToken .thrEsc).emit (es := [.msg .thrFinal, .gap .thrFinal, .msg .none]) rfl

theorem State.Inv.thrAdvance {s : State} (h : s.Inv) (ack : Bool) : (Machine.thrAdvance ack s).Inv := by
  rw [Machine.thrAdvance]
  cases s.thrCycle with
  | c0 => exact h.thrStart ack
  | c1 => exact h.thrMaxThrottle
  | c2 => exact h.thrMinThrottle
  | c3 => exact h.thrFinish

/-! ### The operations -/

/-- An operation that does nothing where it is not selected. -/
theorem State.Inv.ite {s t : State} (h : s.Inv) {p : Prop} [Decidable p] (ht : p → t.Inv) :
    (if p then t else s).Inv := by
  split
  case isTrue hp => exact ht hp
  case isFalse => exact h

theorem State.Inv.tickAll {s : State} (h : s.Inv) : (Machine.tickAll s).Inv := h.drain.calTick.beat

theorem State.Inv.writePref {s : State} (h : s.Inv) {a : Nat} (ha : a < s.cfg.prefSize) (b : Byte) :
    ({ s with pref := s.pref.write a b } : State).Inv := by
  obtain ⟨-, ⟨hwf, hbelow, -⟩, -⟩ := id h
  exact h.withPref (Memory.wf_write hwf a b) (Memory.below_write hbelow ha b)

/-- An `ATAN2` query writes its port and the model's own counter at most. -/
theorem State.Inv.exists_execAtan2 {s : State} (h : s.Inv) (x y : Word) : ∃ t, execAtan2 x y s = .next t ∧ t.Inv := by
  rw [execAtan2]
  cases atanResult s.cfg x y with
  | some a => exact ⟨_, rfl, h⟩
  | none => exact ⟨_, rfl, h⟩

/-- Every operation goes on to a state that meets the invariant: the rows of the table in the order of `Instr`, those
that only send a token together. -/
theorem State.Inv.exists_exec {s : State} (h : s.Inv) (i : Instr) : ∃ t, exec i s = .next t ∧ t.Inv := by
  cases i with
  | atan2 x y => exact h.exists_execAtan2 x y
  | rxByte _ | hostMemRead _ _ | reqNop | calIdle => exact ⟨_, rfl, h⟩
  | tick => exact ⟨_, rfl, h.tickAll⟩
  | hostMemWrite _ _ data => exact ⟨_, rfl, h.ite fun ⟨_, ha⟩ => h.writePref ha data⟩
  | frameRadio p | frameSensors p | frameQuat p | frameComputed p | frameMotors p | frameTargetQuat p
  | frameDebug p | frameGps p => exact ⟨_, rfl, h.decodeRec _ p⟩
  | frameSettings p => exact ⟨_, rfl, h.settingsFrame p⟩
  | frameUnknown _ _ | reqMotorTest | reqReservedE | reqReservedF => exact ⟨_, rfl, h.takeCondition _⟩
  | reqStartRadioCal => exact ⟨_, rfl, h.withCalStep nofun nofun⟩
  | reqLeaveView => exact ⟨_, rfl, h.leaveView⟩
  | reqThrAdvance ack => exact ⟨_, rfl, h.thrAdvance ack⟩
  | reqUploadPrefs => exact ⟨_, rfl, h.upload⟩
  | thr0to1 ack => exact ⟨_, rfl, h.ite fun _ => h.thrStart ack⟩
  | thr1to2 => exact ⟨_, rfl, h.ite fun _ => h.thrMaxThrottle⟩
  | thr2to3 => exact ⟨_, rfl, h.ite fun _ => h.thrMinThrottle⟩
  | thr3to0 => exact ⟨_, rfl, h.ite fun _ => h.thrFinish⟩
  | calReset => exact ⟨_, rfl, h.ite fun _ => h.calResetTick⟩
  | calSampling => exact ⟨_, rfl, h.ite h.calSamplingTick⟩
  | calApply => exact ⟨_, rfl, h.ite fun _ => h.calApplyTick⟩
  | heartbeat => exact ⟨_, rfl, h.beat⟩
  | uploadStream => exact ⟨_, rfl, h.emit (leavesMsgAtRest_uploadEvents _ _)⟩
  | reqThrCancel => exact ⟨_, rfl, h.sendToken .thrEsc⟩
  | reqQueryPrefs | reqWipePrefs | reqResetRadio | reqRevertGyro | reqRevertAccel | reqZeroGyro | reqZeroAccel
  | tokenHeartbeat | tokenQueryPrefs | tokenUpdatePrefs | tokenWipePrefs | tokenResetRadio | tokenRevertGyro
  | tokenRevertAccel | tokenZeroGyro | tokenZeroAccel | tokenThrottleCal | tokenThrMax | tokenThrEsc =>
    exact ⟨_, rfl, h.sendToken _⟩

theorem State.Inv.of_exec {s t : State} (h : s.Inv) {i : Instr} (hexec : exec i s = .next t) : t.Inv := by
  obtain ⟨u, hu, hinv⟩ := h.exists_exec i
  obtain rfl : u = t := Host.Outcome.next.inj (hu.symm.trans hexec)
  exact hinv

/-- Settles O60, by the three ways a step goes on: idle, the reset event, an operation. -/
theorem everyStepKeepsTheInvariant : Obligations.EveryStepKeepsTheInvariant := by
  intro s t h hstep
  obtain ⟨-, rfl⟩ | ⟨rest, -, rfl⟩ | ⟨w, rest, i, -, -, hexec⟩ := step_cases hstep
  · exact h
  · obtain ⟨hcfg, -⟩ := h
    exact State.inv_resetWith hcfg
  · have htaken : ({ s with pending := rest } : State).Inv := h
    exact htaken.of_exec hexec

end Sys2Proof.Machine
end

section
/-! SUPPORT. THRCAL (44_throttle_cal.md): the transition that each cycle selects, under both of its names, and the
independence of a tick and `thr_cycle` (R195). -/

namespace Sys2Proof.Machine

/-! ### The transition of each cycle (R186) -/

theorem exec_reqThrAdvance (ack : Bool) (s : State) : exec (.reqThrAdvance ack) s = .next (thrAdvance ack s) := rfl

/-- The row that `thr_cycle` selects, run alone, is the transition of the request. -/
theorem exec_thrInstr {s : State} {k : ThrCycle} (h : s.thrCycle = k) (ack : Bool) :
    exec (thrInstr ack k) s = .next (thrAdvance ack s) := by
  rw [thrAdvance, h]
  cases k with
  | c0 | c1 | c2 | c3 => exact congrArg Host.Outcome.next (if_pos h)

/-- The request and the row that the cycle selects do the same. -/
theorem exec_of_thrAdvance_or_row {s : State} {k : ThrCycle} (h : s.thrCycle = k) {ack : Bool} {i : Instr}
    (hi : i = .reqThrAdvance ack ∨ i = thrInstr ack k) : exec i s = .next (thrAdvance ack s) := by
  rcases hi with rfl | rfl
  · exact exec_reqThrAdvance ack s
  · exact exec_thrInstr h ack

/-- With the acknowledgment (R187). -/
theorem thrAdvance_true_of_c0 {s : State} (h : s.thrCycle = .c0) :
    thrAdvance true s =
      { s with thrCycle := .c1, out := s.out ++ s.cfg.cmds.throttleCal.map .tx } := by
  rw [thrAdvance, h]
  rfl

/-- Without the acknowledgment: the abort of R192, which leaves the cycle at 0 (R187). -/
theorem thrAdvance_false_of_c0 {s : State} (h : s.thrCycle = .c0) :
    thrAdvance false s =
      { s with
        conds := s.conds ++ [.interlockProps]
        out := s.out ++ [.tx 0x00#8, .msg .warnProps, .gap .warn, .msg .none] } := by
  have habort : thrAdvance false s = thrStart false s := by rw [thrAdvance, h]
  rw [habort, thrStart_eq, if_neg Bool.false_ne_true, ← h]
  rfl

/-- The battery reading at zero (R188). -/
theorem thrAdvance_of_c1_of_zero {s : State} (h : s.thrCycle = .c1) (hbatt : s.batt = 0#16) (ack : Bool) :
    thrAdvance ack s = { s with thrCycle := .c2, out := s.out ++ [.tx 0xFF#8] } := by
  rw [thrAdvance, h]
  exact (thrMaxThrottle_eq s).trans (if_pos hbatt)

/-- The battery connected: the abort of R192, back to cycle 0 (R188). -/
theorem thrAdvance_of_c1_of_ne_zero {s : State} (h : s.thrCycle = .c1) (hbatt : s.batt ≠ 0#16) (ack : Bool) :
    thrAdvance ack s =
      { s with
        thrCycle := .c0
        conds := s.conds ++ [.interlockBattery]
        out := s.out ++ [.tx 0x00#8, .msg .warnBattery, .gap .warn, .msg .none] } := by
  rw [thrAdvance, h]
  exact (thrMaxThrottle_eq s).trans (if_neg hbatt)

theorem thrAdvance_of_c2 {s : State} (h : s.thrCycle = .c2) (ack : Bool) :
    thrAdvance ack s = { s with thrCycle := .c3, out := s.out ++ [.tx 0x00#8] } := by
  rw [thrAdvance, h]
  rfl

/-- Everything `THR.3TO0` does: the byte and the three events of the final instructions. -/
theorem thrFinish_eq (s : State) :
    thrFinish s =
      { s with
        thrCycle := .c0
        out := s.out ++ [.tx 0x00#8, .msg .thrFinal, .gap .thrFinal, .msg .none] } := by
  rw [thrFinish, State.sendToken, State.emit_emit]
  rfl

theorem thrAdvance_of_c3 {s : State} (h : s.thrCycle = .c3) (ack : Bool) :
    thrAdvance ack s =
      { s with
        thrCycle := .c0
        out := s.out ++ [.tx 0x00#8, .msg .thrFinal, .gap .thrFinal, .msg .none] } := by
  rw [thrAdvance, h]
  exact thrFinish_eq s

/-- Settles O37, by the acknowledgment. -/
theorem throttleStartNeedsAcknowledgment : Obligations.ThrottleStartNeedsAcknowledgment := by
  intro s h i hi
  have hexec (ack : Bool) : exec (i ack) s = .next (thrAdvance ack s) :=
    exec_of_thrAdvance_or_row h (hi.imp (congrFun · ack) (congrFun · ack))
  exact ⟨(hexec true).trans (congrArg _ (thrAdvance_true_of_c0 h)),
    _, (hexec false).trans (congrArg _ (thrAdvance_false_of_c0 h))⟩

/-- Settles O38, by the battery reading: `State.batt` is the field of the radio record that the statement spells
out. -/
theorem throttleMaxNeedsZeroBattery : Obligations.ThrottleMaxNeedsZeroBattery := by
  intro ack s h i hi
  have hexec := exec_of_thrAdvance_or_row h hi
  exact ⟨fun hzero => hexec.trans (congrArg _ (thrAdvance_of_c1_of_zero h hzero ack)),
    fun hne => ⟨_, hexec.trans (congrArg _ (thrAdvance_of_c1_of_ne_zero h hne ack))⟩⟩

/-- Settles O39. -/
theorem throttleMinNeedsNothing : Obligations.ThrottleMinNeedsNothing :=
  fun ack _ h _ hi => (exec_of_thrAdvance_or_row h hi).trans (congrArg _ (thrAdvance_of_c2 h ack))

/-- Settles O40. -/
theorem throttleFinishShowsInstructions : Obligations.ThrottleFinishShowsInstructions :=
  fun ack _ h _ hi => (exec_of_thrAdvance_or_row h hi).trans (congrArg _ (thrAdvance_of_c3 h ack))

theorem exec_reqThrCancel (s : State) :
    exec .reqThrCancel s = .next { s with thrCycle := .c0, out := s.out ++ [.tx 0x00#8] } := rfl

/-- Settles O41. -/
theorem throttleCancelAlwaysEscapes : Obligations.ThrottleCancelAlwaysEscapes := exec_reqThrCancel

/-! ### A tick and the throttle cycle (R195)

Each part of a tick commutes with any change of `thr_cycle`: it cannot read a field that it carries over unread. That
it does not write the field either is the special case where the change is none. -/

/-- The state in another throttle cycle. -/
def State.inCycle (x : ThrCycle) (s : State) : State := { s with thrCycle := x }

@[simp] theorem State.inCycle_thrCycle (s : State) : s.inCycle s.thrCycle = s := rfl

/-- `f` neither reads nor writes `thr_cycle`. -/
def BlindToCycle (f : State → State) : Prop := ∀ x s, f (s.inCycle x) = (f s).inCycle x

/-- What does not read the cycle does not write it. -/
theorem BlindToCycle.thrCycle_eq {f : State → State} (hf : BlindToCycle f) (s : State) :
    (f s).thrCycle = s.thrCycle :=
  calc (f s).thrCycle
    _ = (f (s.inCycle s.thrCycle)).thrCycle := by rw [State.inCycle_thrCycle]
    _ = ((f s).inCycle s.thrCycle).thrCycle := by rw [hf]
    _ = s.thrCycle := rfl

theorem BlindToCycle.comp {f g : State → State} (hg : BlindToCycle g) (hf : BlindToCycle f) :
    BlindToCycle fun s => g (f s) :=
  fun x s => (congrArg g (hf x s)).trans (hg x (f s))

/-! The drain. -/

theorem blindToCycle_decodeRec (k : RecKind) (payload : List Byte) : BlindToCycle (decodeRec k payload) :=
  fun _ _ => rfl

theorem blindToCycle_settingsFrame (payload : List Byte) : BlindToCycle (settingsFrame payload) := by
  intro x s
  rw [settingsFrame_eq, settingsFrame_eq, apply_ite (State.inCycle x)]
  rfl

theorem blindToCycle_unknownFrame : BlindToCycle unknownFrame := fun _ _ => rfl

theorem blindToCycle_dispatch (p : Packet) : BlindToCycle (dispatch p) := by
  intro x s
  have hcfg : (s.inCycle x).cfg = s.cfg := rfl
  rw [dispatch, dispatch, hcfg]
  cases kindOfMode s.cfg p.mode with
  | none => exact blindToCycle_unknownFrame x s
  | some k =>
    cases k with
    | telemetry k => exact blindToCycle_decodeRec k p.payload x s
    | settings => exact blindToCycle_settingsFrame p.payload x s

/-- The next packet is the same, and so is the state without it but for the cycle. -/
theorem nextPacket_inCycle (x : ThrCycle) (s : State) :
    nextPacket (s.inCycle x) = (nextPacket s).map fun r => (r.1, r.2.inCycle x) := by
  rw [nextPacket_eq, nextPacket_eq, Option.map_map]
  rfl

theorem blindToCycle_drainUpTo (n : Nat) : BlindToCycle (drainUpTo n) := by
  intro x s
  induction n generalizing s with
  | zero => rfl
  | succ n ih =>
    have hnext := nextPacket_inCycle x s
    cases hp : nextPacket s with
    | none =>
      rw [hp] at hnext
      rw [drainUpTo_of_none hp, drainUpTo_of_none hnext]
    | some r =>
      obtain ⟨p, s'⟩ := r
      rw [hp] at hnext
      rw [drainUpTo_succ_of_some hp, drainUpTo_succ_of_some hnext, blindToCycle_dispatch, ih]

theorem blindToCycle_drain : BlindToCycle drain := fun x s => blindToCycle_drainUpTo s.rxq.length x s

/-! The calibration phase and the heartbeat. -/

theorem blindToCycle_sampleWindow : BlindToCycle sampleWindow := by
  intro x s
  rw [sampleWindow, sampleWindow, apply_ite (State.inCycle x), apply_ite (State.inCycle x)]
  rfl

theorem blindToCycle_countdown : BlindToCycle countdown := fun _ _ => rfl

theorem blindToCycle_calSamplingTick : BlindToCycle calSamplingTick :=
  blindToCycle_countdown.comp blindToCycle_sampleWindow

theorem blindToCycle_applyChannel (ch : Fin 8) : BlindToCycle (applyChannel ch) := by
  intro x s
  rw [applyChannel, applyChannel, apply_ite (State.inCycle x), apply_ite (State.inCycle x)]
  rfl

theorem blindToCycle_applyChannels : BlindToCycle applyChannels :=
  fun x _ => List.foldl_hom (State.inCycle x) fun u ch => blindToCycle_applyChannel ch x u

theorem blindToCycle_upload : BlindToCycle upload := fun _ _ => rfl

theorem blindToCycle_withCalStep (k : CalStep) : BlindToCycle fun s => { s with calStep := k } := fun _ _ => rfl

theorem blindToCycle_calApplyTick : BlindToCycle calApplyTick :=
  (blindToCycle_withCalStep .idle).comp (blindToCycle_upload.comp blindToCycle_applyChannels)

theorem blindToCycle_calTick : BlindToCycle calTick := by
  intro x s
  cases h : s.calStep with
  | idle => rw [calTick_of_idle h, calTick_of_idle (s := s.inCycle x) h]
  | reset =>
    rw [calTick_of_reset h, calTick_of_reset (s := s.inCycle x) h]
    rfl
  | sampling =>
    rw [calTick_of_sampling h, calTick_of_sampling (s := s.inCycle x) h]
    exact blindToCycle_calSamplingTick x s
  | apply =>
    rw [calTick_of_apply h, calTick_of_apply (s := s.inCycle x) h]
    exact blindToCycle_calApplyTick x s

theorem blindToCycle_beat : BlindToCycle beat := by
  intro x s
  rw [beat, beat, apply_ite (State.inCycle x)]
  rfl

theorem blindToCycle_tickAll : BlindToCycle tickAll :=
  blindToCycle_beat.comp (blindToCycle_calTick.comp blindToCycle_drain)

theorem exec_tick (s : State) : exec .tick s = .next (tickAll s) := rfl

/-- Settles O45: the tick is blind to the cycle, phase by phase. -/
theorem tickIsBlindToTheThrottleCycle : Obligations.TickIsBlindToTheThrottleCycle := by
  intro s t x htick
  obtain rfl : tickAll s = t := Host.Outcome.next.inj htick
  exact ⟨blindToCycle_tickAll.thrCycle_eq s,
    (exec_tick _).trans (congrArg Host.Outcome.next (blindToCycle_tickAll x s))⟩

end Sys2Proof.Machine
end

section
/-! SUPPORT. The tick loop (45_tick_loop.md): the phases of a tick and what each writes (R200, R201), the table of
transfers (R205), and what each kind of step writes (R204). -/

namespace Sys2Proof.Machine

/-! ### One step and one operation -/

/-- Settles O4, by the head of the script: `withFetchWord` puts a strobe there. -/
theorem stepRunsTheDecodedOperation : Obligations.StepRunsTheDecodedOperation :=
  ⟨fun _ _ _ _ => step_of_pending_strobe, fun _ => step_of_pending_nil,
    fun s nbits w _ hd => step_of_pending_strobe (s := s.withFetchWord nbits w) rfl hd⟩

/-- Two outcomes of one operation are the same state. -/
theorem eq_of_exec {i : Instr} {s t u : State} (ht : exec i s = .next t) (hu : exec i s = .next u) : t = u :=
  Host.Outcome.next.inj (ht.symm.trans hu)

/-! ### The heartbeat (R201) -/

theorem exec_heartbeat (s : State) : exec .heartbeat s = .next (beat s) := rfl

/-- A count below the period does not wrap. -/
theorem toNat_hbCount_succ {s : State} (hcfg : s.cfg.HeartbeatOk) (h : s.hbCount.toNat < s.cfg.heartbeatPeriod) :
    (s.hbCount + 1#16).toNat = s.hbCount.toNat + 1 := by
  obtain ⟨-, hfits⟩ := hcfg
  bv_omega

/-- Settles O46, by whether the next count is the period. -/
theorem heartbeatOnEveryPeriod : Obligations.HeartbeatOnEveryPeriod := by
  intro s hcfg hlt
  have hcount := toNat_hbCount_succ hcfg hlt
  rw [exec_heartbeat]
  obtain ⟨hlast, e⟩ | ⟨hnot, e⟩ := beat_cases s <;> rw [e]
  · exact ⟨fun _ => rfl, fun hbelow => absurd (hcount.symm.trans hlast) hbelow.ne⟩
  · exact ⟨fun hperiod => absurd (hcount.trans hperiod) hnot, fun _ => ⟨_, hcount, rfl⟩⟩

/-! ### What each phase of a tick writes -/

/-- `t` differs from `s` at most in what a tick may write (R204): of the block's own elements all but `thr_cycle`. -/
def TickWrites (s t : State) : Prop :=
  t = { s with
    rxq := t.rxq
    recs := t.recs
    pref := t.pref
    prefValid := t.prefValid
    calStep := t.calStep
    calRemaining := t.calRemaining
    cal := t.cal
    hbCount := t.hbCount
    out := t.out
    conds := t.conds }

theorem TickWrites.trans {s t u : State} (h : TickWrites s t) (h' : TickWrites t u) : TickWrites s u := by
  rw [TickWrites] at h h'
  rw [h] at h'
  exact h'

theorem tickWrites_drain (s : State) : TickWrites s (drain s) := by
  rw [drain_writes]
  rfl

theorem tickWrites_calTick (s : State) : TickWrites s (calTick s) := by
  cases h : s.calStep with
  | idle => rw [calTick_of_idle h]; rfl
  | reset => rw [calTick_of_reset h, calResetTick_eq]; rfl
  | sampling => rw [calTick_of_sampling h, calSamplingTick_eq]; rfl
  | apply => rw [calTick_of_apply h, calApplyTick_eq]; rfl

/-- The heartbeat writes its counter and the trace only. -/
theorem beat_writes (s : State) : beat s = { s with hbCount := (beat s).hbCount, out := (beat s).out } := by
  obtain ⟨-, e⟩ | ⟨-, e⟩ := beat_cases s <;> rw [e]

theorem tickWrites_beat (s : State) : TickWrites s (beat s) := by
  rw [beat_writes]
  rfl

theorem tickWrites_tickAll (s : State) : TickWrites s (tickAll s) :=
  ((tickWrites_drain s).trans (tickWrites_calTick _)).trans (tickWrites_beat _)

@[simp] theorem beat_rxq (s : State) : (beat s).rxq = s.rxq := by rw [beat_writes]

@[simp] theorem beat_cal (s : State) : (beat s).cal = s.cal := by rw [beat_writes]

@[simp] theorem beat_calStep (s : State) : (beat s).calStep = s.calStep := by rw [beat_writes]

@[simp] theorem drain_calStep (s : State) : (drain s).calStep = s.calStep := by rw [drain_writes]

@[simp] theorem drain_calRemaining (s : State) : (drain s).calRemaining = s.calRemaining := by rw [drain_writes]

/-! ### The order of the phases (R200) -/

/-- Settles O43: the third phase is the heartbeat row. -/
theorem tickRunsItsPhasesInOrder : Obligations.TickRunsItsPhasesInOrder :=
  fun s => ⟨tickAll s, exec_tick s, exec_heartbeat _⟩

/-- A queue that is one frame: the drain dispatches it and comes to an end. -/
theorem drain_of_one_frame {s : State} {p : Packet} (hlen : p.payload.length ≤ 65535) (hq : s.rxq = frameBytes p) :
    drain s = dispatch p { s with rxq := [] } := by
  have hframe : nextFrame s.rxq = some (p, []) := by
    rw [hq, ← List.append_nil (frameBytes p), nextFrame_frameBytes hlen]
  have hfirst : nextPacket s = some (p, { s with rxq := [] }) := by rw [nextPacket_eq, hframe]; rfl
  have hnext : nextPacket (dispatch p { s with rxq := [] }) = none := by
    rw [nextPacket_eq_none_iff, dispatch_rxq]
    rfl
  rw [drain_of_some hfirst, drain_of_none hnext]

/-- The radio tag is compared first, so it needs no distinct tags (30_encoding.md R73). -/
theorem dispatch_radio (payload : List Byte) (s : State) :
    dispatch ⟨s.cfg.modes.radio, payload⟩ s = decodeRec .radio payload s := by
  have hkind : kindOfMode s.cfg s.cfg.modes.radio = some (.telemetry .radio) := if_pos rfl
  rw [dispatch, hkind]

/-- Two bytes inside a space built from bytes. -/
theorem Memory.half_ofBytes {size a : Nat} (h : a + 1 < size) (bs : List Byte) :
    (Memory.ofBytes size bs).half a = le16Of (bs.getD a 0#8) (bs.getD (a + 1) 0#8) := by
  rw [Memory.half, Memory.read_ofBytes, Memory.read_ofBytes, if_pos (by omega), if_pos h]

/-- Right after a radio frame each channel reads its two bytes of the payload (10_state.md R28). -/
theorem channel_decodeRec_radio {s : State} (hsize : 16 ≤ s.cfg.recSize.c0) (payload : List Byte) (ch : Fin 8) :
    (decodeRec .radio payload s).channel ch =
      le16Of (payload.getD (2 * ch.val) 0#8) (payload.getD (2 * ch.val + 1) 0#8) := by
  have hrecord : s.recordSize .radio = s.cfg.recSize.c0 := rfl
  rw [State.channel, record_decodeRec_same, hrecord, Memory.half_ofBytes (by omega)]

/-- The capture tick starts each channel at the value it has before the tick's second phase (43_radio_cal.md R170). -/
theorem start_calTick_of_capture {s : State} (hstep : s.calStep = .sampling)
    (hcapture : s.calRemaining.toNat = s.cfg.captureAt) (ch : Fin 8) :
    ((calTick s).cal.get ch).start = s.channel ch := by
  rw [calTick_of_sampling hstep, calSamplingTick_eq, sampleWindow_of_eq hcapture, capture_cal_get]

theorem rxq_calTick_of_sampling {s : State} (hstep : s.calStep = .sampling) : (calTick s).rxq = s.rxq := by
  rw [calTick_of_sampling hstep, calSamplingTick_eq]

/-- Settles O44: the drain leaves the frame's payload as the radio record, and the calibration phase of the same
tick captures that record. -/
theorem tickSamplesTheFreshestFrame : Obligations.TickSamplesTheFreshestFrame := by
  intro s payload hstep _ hcapture hsize hlen hq
  have hframe : s.rxq = frameBytes ⟨s.cfg.modes.radio, payload⟩ := by rw [hq, frameBytes, hlen]
  have hdrain : drain s = decodeRec .radio payload { s with rxq := [] } := by
    rw [drain_of_one_frame (by simp [hlen]) hframe]
    exact dispatch_radio payload { s with rxq := [] }
  have hstep' : (drain s).calStep = .sampling := (drain_calStep s).trans hstep
  refine ⟨tickAll s, exec_tick s, ?queue, fun ch => ?start⟩
  case queue =>
    rw [tickAll, beat_rxq, rxq_calTick_of_sampling hstep', hdrain]
    rfl
  case start =>
    have hcapture' : (drain s).calRemaining.toNat = (drain s).cfg.captureAt := by
      rw [drain_calRemaining, (continues_drain s).cfg, hcapture]
    rw [tickAll, beat_cal, start_calTick_of_capture hstep' hcapture', hdrain]
    exact channel_decodeRec_radio (s := { s with rxq := [] }) (hsize.symm ▸ by decide) payload ch

/-! ### The codes that do nothing (R203, R209) -/

/-- The handling of a reserved request is empty (60_exceptions.md R221). -/
theorem takeCondition_reservedRequest (s : State) :
    takeCondition .reservedRequest s = { s with conds := s.conds ++ [.reservedRequest] } := by
  rw [takeCondition_eq, handlingEvents, handledCycle, List.append_nil]

/-- Settles O47: only the model's own trace grows, on a reserved code. -/
theorem nopAndReservedCodesDoNothing : Obligations.NopAndReservedCodesDoNothing := by
  refine fun s => ⟨rfl, fun i hi => ⟨s.conds ++ [.reservedRequest], ?_⟩⟩
  rw [← takeCondition_reservedRequest]
  simp only [List.mem_cons, List.not_mem_nil, or_false] at hi
  obtain rfl | rfl | rfl := hi <;> rfl

/-! ### The table of transfers (R205) -/

/-- `cal_step` and `thr_cycle` in `t` are the ones that the table gives for `i` in `s`. -/
def FollowsTransfers (i : Instr) (s t : State) : Prop := t.calStep = calTarget i s ∧ t.thrCycle = thrTarget i s

theorem countdown_eq_zero_iff_eq_one (r : Word) : r - 1#32 = 0#32 ↔ r = 1#32 := by
  rw [countdown_eq_zero_iff, ← BitVec.toNat_inj]
  rfl

/-- The calibration phase goes where the table sends a tick. -/
theorem calTick_calStep (s : State) : (calTick s).calStep = calTarget .tick s := by
  cases h : s.calStep with
  | idle => simp only [calTarget, h, calTick_of_idle h]
  | reset => simp only [calTarget, h, calTick_of_reset h, calResetTick_eq]
  | sampling => simp only [calTarget, h, calTick_of_sampling h, calSamplingTick_eq, countdown_eq_zero_iff_eq_one]
  | apply => simp only [calTarget, h, calTick_of_apply h, calApplyTick_eq]

theorem calTarget_tick_drain (s : State) : calTarget .tick (drain s) = calTarget .tick s := by
  simp only [calTarget, drain_calStep, drain_calRemaining]

theorem followsTransfers_tick (s : State) : FollowsTransfers .tick s (tickAll s) :=
  ⟨by rw [tickAll, beat_calStep, calTick_calStep, calTarget_tick_drain], blindToCycle_tickAll.thrCycle_eq s⟩

/-- A calibration row that is selected goes where a tick goes. -/
theorem calTarget_decodeCal {s : State} {k : CalStep} (h : s.calStep = k) :
    calTarget (decodeCal k) s = calTarget .tick s := by
  cases k with
  | idle => simp only [decodeCal, calTarget, h]
  | reset | sampling | apply => exact if_pos h

/-- A calibration row that is not selected goes nowhere (assumption 4). -/
theorem calTarget_decodeCal_of_ne {s : State} {k : CalStep} (h : s.calStep ≠ k) :
    calTarget (decodeCal k) s = s.calStep := by
  cases k with
  | idle => rfl
  | reset | sampling | apply => exact if_neg h

theorem thrTarget_decodeCal (k : CalStep) (s : State) : thrTarget (decodeCal k) s = s.thrCycle := by
  cases k <;> rfl

theorem exists_followsTransfers_decodeCal (k : CalStep) (s : State) :
    ∃ t, exec (decodeCal k) s = .next t ∧ FollowsTransfers (decodeCal k) s t := by
  by_cases h : s.calStep = k
  · refine ⟨calTick s, exec_decodeCal h, ?cal, ?thr⟩
    case cal => rw [calTick_calStep, calTarget_decodeCal h]
    case thr => rw [thrTarget_decodeCal, blindToCycle_calTick.thrCycle_eq]
  · exact ⟨s, exec_decodeCal_of_ne h, (calTarget_decodeCal_of_ne h).symm, (thrTarget_decodeCal k s).symm⟩

/-- Everything a `THR_ADVANCE` does, but for the two traces: it goes where the table sends it. -/
theorem exists_thrAdvance_eq (ack : Bool) (s : State) :
    ∃ out' conds', thrAdvance ack s = { s with thrCycle := thrAdvanceTarget ack s, out := out', conds := conds' } := by
  rw [thrAdvance, thrAdvanceTarget]
  cases s.thrCycle with
  | c0 =>
    cases ack with
    | true => exact ⟨_, _, thrStart_eq true s⟩
    | false => exact ⟨_, _, thrStart_eq false s⟩
  | c1 =>
    by_cases hbatt : s.batt = 0#16
    · rw [if_pos hbatt]; exact ⟨_, _, (thrMaxThrottle_eq s).trans (if_pos hbatt)⟩
    · rw [if_neg hbatt]; exact ⟨_, _, (thrMaxThrottle_eq s).trans (if_neg hbatt)⟩
  | c2 => exact ⟨_, _, rfl⟩
  | c3 => exact ⟨_, _, thrFinish_eq s⟩

theorem thrAdvance_calStep (ack : Bool) (s : State) : (thrAdvance ack s).calStep = s.calStep := by
  obtain ⟨_, _, e⟩ := exists_thrAdvance_eq ack s
  rw [e]

theorem thrAdvance_thrCycle (ack : Bool) (s : State) : (thrAdvance ack s).thrCycle = thrAdvanceTarget ack s := by
  obtain ⟨_, _, e⟩ := exists_thrAdvance_eq ack s
  rw [e]

/-- A throttle row that is selected goes where the request goes: only `THR.0TO1` reads the acknowledgment. -/
theorem thrTarget_thrInstr {s : State} {k : ThrCycle} (h : s.thrCycle = k) (ack : Bool) :
    thrTarget (thrInstr ack k) s = thrAdvanceTarget ack s := by
  cases k with
  | c0 => exact if_pos h
  | c1 | c2 | c3 => simp only [thrInstr, thrTarget, thrAdvanceTarget, h, if_true]

/-- A throttle row that is not selected goes nowhere (assumption 4). -/
theorem thrTarget_thrInstr_of_ne {s : State} {k : ThrCycle} (h : s.thrCycle ≠ k) (ack : Bool) :
    thrTarget (thrInstr ack k) s = s.thrCycle := by
  cases k with
  | c0 | c1 | c2 | c3 => exact if_neg h

/-- A throttle row that is not selected (assumption 4). -/
theorem exec_thrInstr_of_ne {s : State} {k : ThrCycle} (h : s.thrCycle ≠ k) (ack : Bool) :
    exec (thrInstr ack k) s = .next s := by
  cases k with
  | c0 | c1 | c2 | c3 => exact congrArg Host.Outcome.next (if_neg h)

theorem calTarget_thrInstr (ack : Bool) (k : ThrCycle) (s : State) : calTarget (thrInstr ack k) s = s.calStep := by
  cases k <;> rfl

theorem exists_followsTransfers_thrInstr (ack : Bool) (k : ThrCycle) (s : State) :
    ∃ t, exec (thrInstr ack k) s = .next t ∧ FollowsTransfers (thrInstr ack k) s t := by
  by_cases h : s.thrCycle = k
  · refine ⟨thrAdvance ack s, exec_thrInstr h ack, ?cal, ?thr⟩
    case cal => rw [thrAdvance_calStep, calTarget_thrInstr]
    case thr => rw [thrAdvance_thrCycle, thrTarget_thrInstr h]
  · exact ⟨s, exec_thrInstr_of_ne h ack, (calTarget_thrInstr ack k s).symm, (thrTarget_thrInstr_of_ne h ack).symm⟩

/-- `LEAVE_VIEW` ends both sessions (43_radio_cal.md R179). -/
theorem followsTransfers_leaveView (s : State) : FollowsTransfers .reqLeaveView s (leaveView s) := by
  rw [leaveView_eq]
  split
  · assumption
  · exact ⟨rfl, rfl⟩

theorem settingsFrame_calStep (payload : List Byte) (s : State) : (settingsFrame payload s).calStep = s.calStep := by
  rw [settingsFrame_eq]
  split <;> rfl

theorem settingsFrame_thrCycle (payload : List Byte) (s : State) :
    (settingsFrame payload s).thrCycle = s.thrCycle := (blindToCycle_settingsFrame payload).thrCycle_eq s

/-- Both outcomes of a query leave both sequencers. -/
theorem exists_followsTransfers_execAtan2 (x y : Word) (s : State) :
    ∃ t, exec (.atan2 x y) s = .next t ∧ FollowsTransfers (.atan2 x y) s t := by
  cases h : atanResult s.cfg x y with
  | some a => exact ⟨_, exec_atan2_of_result h, rfl, rfl⟩
  | none => exact ⟨_, exec_atan2_of_free h, rfl, rfl⟩

/-- A write leaves both sequencers, inside `PREF` and outside. -/
theorem exists_followsTransfers_hostMemWrite (space : BitVec 4) (addr : Half) (data : Byte) (s : State) :
    ∃ t, exec (.hostMemWrite space addr data) s = .next t ∧
      FollowsTransfers (.hostMemWrite space addr data) s t := by
  refine ⟨_, rfl, ?_⟩
  split <;> exact ⟨rfl, rfl⟩

/-- Every operation follows the table: first the rows it names, then the others, which leave both sequencers. -/
theorem exists_followsTransfers (i : Instr) (s : State) : ∃ t, exec i s = .next t ∧ FollowsTransfers i s t := by
  cases i with
  | tick => exact ⟨_, rfl, followsTransfers_tick s⟩
  | calIdle => exact exists_followsTransfers_decodeCal .idle s
  | calReset => exact exists_followsTransfers_decodeCal .reset s
  | calSampling => exact exists_followsTransfers_decodeCal .sampling s
  | calApply => exact exists_followsTransfers_decodeCal .apply s
  | reqThrAdvance ack => exact ⟨_, rfl, thrAdvance_calStep ack s, thrAdvance_thrCycle ack s⟩
  | thr0to1 ack => exact exists_followsTransfers_thrInstr ack .c0 s
  | thr1to2 => exact exists_followsTransfers_thrInstr false .c1 s
  | thr2to3 => exact exists_followsTransfers_thrInstr false .c2 s
  | thr3to0 => exact exists_followsTransfers_thrInstr false .c3 s
  | reqStartRadioCal | reqThrCancel => exact ⟨_, rfl, rfl, rfl⟩
  | reqLeaveView => exact ⟨_, rfl, followsTransfers_leaveView s⟩
  | atan2 x y => exact exists_followsTransfers_execAtan2 x y s
  | hostMemWrite space addr data => exact exists_followsTransfers_hostMemWrite space addr data s
  | frameSettings p => exact ⟨_, rfl, settingsFrame_calStep p s, settingsFrame_thrCycle p s⟩
  | heartbeat => exact ⟨_, rfl, beat_calStep s, blindToCycle_beat.thrCycle_eq s⟩
  | rxByte _ | hostMemRead _ _ | frameRadio _ | frameSensors _ | frameQuat _ | frameComputed _ | frameMotors _
  | frameTargetQuat _ | frameDebug _ | frameGps _ | frameUnknown _ _ | reqNop | reqUploadPrefs | reqQueryPrefs
  | reqWipePrefs | reqResetRadio | reqRevertGyro | reqRevertAccel | reqZeroGyro | reqZeroAccel | reqMotorTest
  | reqReservedE | reqReservedF | tokenHeartbeat | tokenQueryPrefs | tokenUpdatePrefs | tokenWipePrefs
  | tokenResetRadio | tokenRevertGyro | tokenRevertAccel | tokenZeroGyro | tokenZeroAccel | tokenThrottleCal
  | tokenThrMax | tokenThrEsc | uploadStream => exact ⟨_, rfl, rfl, rfl⟩

/-- Settles O56, operation by operation. -/
theorem sequencersFollowTheTransferTable : Obligations.SequencersFollowTheTransferTable := by
  intro i s t h
  obtain ⟨u, hu, hfollows⟩ := exists_followsTransfers i s
  obtain rfl := eq_of_exec hu h
  exact hfollows

/-! ### What each kind of step writes (R204) -/

/-- `t` differs from `s` at most in what a request may write, and in `PREF` at most in the checksum field. -/
def RequestWrites (s t : State) : Prop :=
  t = { s with
    calStep := t.calStep
    calRemaining := t.calRemaining
    thrCycle := t.thrCycle
    pref := t.pref
    out := t.out
    conds := t.conds } ∧
  ∀ a, a < s.cfg.ckOff ∨ s.cfg.ckOff + 4 ≤ a → t.pref.read a = s.pref.read a

theorem RequestWrites.refl (s : State) : RequestWrites s s := ⟨rfl, fun _ _ => rfl⟩

theorem requestWrites_sendToken (s : State) (t : Token) : RequestWrites s (s.sendToken t) := ⟨rfl, fun _ _ => rfl⟩

theorem requestWrites_takeCondition (c : Condition) (s : State) : RequestWrites s (takeCondition c s) := by
  rw [takeCondition_eq]
  exact ⟨rfl, fun _ _ => rfl⟩

theorem requestWrites_leaveView (s : State) : RequestWrites s (leaveView s) := by
  rw [leaveView_eq]
  split
  · exact .refl s
  · exact ⟨rfl, fun _ _ => rfl⟩

theorem requestWrites_thrAdvance (ack : Bool) (s : State) : RequestWrites s (thrAdvance ack s) := by
  obtain ⟨_, _, e⟩ := exists_thrAdvance_eq ack s
  rw [e]
  exact ⟨rfl, fun _ _ => rfl⟩

/-- The upload is the one request that writes `PREF`: it stamps the checksum field (42_checksum_prefs.md R141). -/
theorem requestWrites_upload {s : State} (hwf : s.pref.wf) : RequestWrites s (upload s) := by
  rw [upload_eq]
  exact ⟨rfl, fun _ ha => read_stamp_of_ne s.cfg hwf ha⟩

theorem exists_requestWrites_thrInstr (ack : Bool) (k : ThrCycle) (s : State) :
    ∃ t, exec (thrInstr ack k) s = .next t ∧ RequestWrites s t := by
  by_cases h : s.thrCycle = k
  · exact ⟨_, exec_thrInstr h ack, requestWrites_thrAdvance ack s⟩
  · exact ⟨_, exec_thrInstr_of_ne h ack, .refl s⟩

/-- Every row of the format `REQ`. -/
theorem exists_requestWrites {i : Instr} (hi : i.format = .req) {s : State} (hwf : s.pref.wf) :
    ∃ t, exec i s = .next t ∧ RequestWrites s t := by
  cases i with
  | reqNop => exact ⟨_, rfl, .refl s⟩
  | reqStartRadioCal | reqThrCancel => exact ⟨_, rfl, rfl, fun _ _ => rfl⟩
  | reqLeaveView => exact ⟨_, rfl, requestWrites_leaveView s⟩
  | reqThrAdvance ack => exact ⟨_, rfl, requestWrites_thrAdvance ack s⟩
  | reqUploadPrefs => exact ⟨_, rfl, requestWrites_upload hwf⟩
  | reqQueryPrefs | reqWipePrefs | reqResetRadio | reqRevertGyro | reqRevertAccel | reqZeroGyro | reqZeroAccel =>
    exact ⟨_, rfl, requestWrites_sendToken s _⟩
  | reqMotorTest | reqReservedE | reqReservedF => exact ⟨_, rfl, requestWrites_takeCondition _ s⟩
  | thr0to1 ack => exact exists_requestWrites_thrInstr ack .c0 s
  | thr1to2 => exact exists_requestWrites_thrInstr false .c1 s
  | thr2to3 => exact exists_requestWrites_thrInstr false .c2 s
  | thr3to0 => exact exists_requestWrites_thrInstr false .c3 s
  | _ => nomatch hi

theorem format_decodeReq (w : Byte) : (decodeReq w).format = .req := by
  rw [decodeReq]
  split <;> rfl

/-- Settles O57, by the kind of step. -/
theorem eachStepKindWritesOnlyItsElements : Obligations.EachStepKindWritesOnlyItsElements := by
  refine ⟨fun x y s t h => ?atan, fun b s t h => ?rx, fun s t h => ?tick, fun w s t hwf h => ?request,
    fun space addr s t h => ?read, fun space addr data s t hwf h => ?write⟩
  case atan =>
    cases hr : atanResult s.cfg x y with
    | some a => obtain rfl := eq_of_exec (exec_atan2_of_result hr) h; rfl
    | none => obtain rfl := eq_of_exec (exec_atan2_of_free hr) h; rfl
  case rx => obtain rfl := eq_of_exec (exec_rxByte b s) h; rfl
  case tick =>
    obtain rfl := eq_of_exec (exec_tick s) h
    exact tickWrites_tickAll s
  case request =>
    obtain ⟨u, hu, hwrites⟩ := exists_requestWrites (format_decodeReq w) hwf
    obtain rfl := eq_of_exec hu h
    exact hwrites
  case read => obtain rfl := eq_of_exec (exec_hostMemRead space addr s) h; rfl
  case write =>
    by_cases hin : space = 0#4 ∧ addr.toNat < s.cfg.prefSize
    · obtain ⟨rfl, haddr⟩ := hin
      obtain rfl := eq_of_exec (exec_hostMemWrite_inside haddr data) h
      exact ⟨rfl, fun a ha => by rw [Memory.read_write hwf, if_neg ha]⟩
    · have hout : space ≠ 0#4 ∨ s.cfg.prefSize ≤ addr.toNat := by
        rwa [not_and_or, Nat.not_lt] at hin
      obtain rfl := eq_of_exec (exec_hostMemWrite_outside hout data) h
      exact ⟨rfl, fun _ _ => rfl⟩

end Sys2Proof.Machine
end

section
/-! SUPPORT. The handled conditions (60_exceptions.md): the entries that the model's own trace gains (R215,
assumption 11). -/

namespace Sys2Proof.Machine

/-! ### The settings frame (R216) -/

theorem settingsFrame_conds (payload : List Byte) (s : State) :
    (settingsFrame payload s).conds =
      if validate s.cfg (stage s.cfg payload) then s.conds else s.conds ++ [.checksumMismatch] := by
  rw [settingsFrame_eq]
  split <;> rfl

/-! ### The Apply tick (R219, R223) -/

/-- A channel that moved and has zero range, the cause of the condition (R219). -/
def CalSample.degenerate (x : CalSample) : Bool := x.moved && x.range == 0

theorem degenerate_iff (x : CalSample) : x.degenerate ↔ x.moved = true ∧ x.range = 0 := by
  rw [CalSample.degenerate, Bool.and_eq_true, beq_iff_eq]

@[simp] theorem applyChannel_cal (ch : Fin 8) (s : State) : (applyChannel ch s).cal = s.cal := by
  obtain ⟨-, e⟩ | ⟨-, -, e⟩ | ⟨-, -, e⟩ := applyChannel_cases ch s <;> rw [e]

theorem applyChannel_conds_of_degenerate {ch : Fin 8} {s : State} (h : (s.cal.get ch).degenerate) :
    (applyChannel ch s).conds = s.conds ++ [.degenerateRange ch] := by
  obtain ⟨hmoved, hrange⟩ := (degenerate_iff _).mp h
  obtain ⟨hnot, -⟩ | ⟨-, -, e⟩ | ⟨-, hnot, -⟩ := applyChannel_cases ch s
  · exact absurd hmoved (Bool.eq_false_iff.mp hnot)
  · rw [e]
  · exact absurd hrange hnot

/-- A channel that never moved is no condition (43_radio_cal.md R180). -/
theorem applyChannel_conds_of_not_degenerate {ch : Fin 8} {s : State} (h : ¬(s.cal.get ch).degenerate) :
    (applyChannel ch s).conds = s.conds := by
  obtain ⟨-, e⟩ | ⟨hmoved, hrange, -⟩ | ⟨-, -, e⟩ := applyChannel_cases ch s
  · rw [e]
  · exact absurd ((degenerate_iff _).mpr ⟨hmoved, hrange⟩) h
  · rw [e]

/-- No channel changes the samples, so each one finds those of the state before the tick. -/
theorem foldl_applyChannel_conds (chs : List (Fin 8)) (s : State) :
    (chs.foldl (fun s ch => applyChannel ch s) s).conds =
      s.conds ++ (chs.filter fun ch => (s.cal.get ch).degenerate).map .degenerateRange := by
  induction chs generalizing s with
  | nil => exact (List.append_nil _).symm
  | cons ch chs ih =>
    rw [List.foldl_cons, ih, applyChannel_cal]
    by_cases h : (s.cal.get ch).degenerate
    · simp [applyChannel_conds_of_degenerate h, h]
    · simp [applyChannel_conds_of_not_degenerate h, h]

theorem calTick_conds_of_apply {s : State} (h : s.calStep = .apply) :
    (calTick s).conds =
      s.conds ++ (channels.filter fun ch => (s.cal.get ch).degenerate).map .degenerateRange := by
  rw [calTick_of_apply h, calApplyTick_eq]
  exact foldl_applyChannel_conds channels s

/-! ### The reserved requests (R221) -/

theorem exec_reservedRequest {i : Instr} (hi : i ∈ [Instr.reqMotorTest, .reqReservedE, .reqReservedF])
    (s : State) : exec i s = .next (takeCondition .reservedRequest s) := by
  simp only [List.mem_cons, List.not_mem_nil, or_false] at hi
  obtain rfl | rfl | rfl := hi <;> rfl

/-! ### The six conditions (R215) -/

/-- Settles O48, condition by condition. -/
theorem conditionsAreTraced : Obligations.ConditionsAreTraced := by
  refine ⟨fun payload s t h => ?checksum, fun s t h0 h => ?props, fun ack s t h1 hbatt h => ?battery,
    fun s t hstep h => ?range, fun m payload s t h => ?mode, fun s t i hi h => ?reserved, ?codes⟩
  case checksum =>
    obtain rfl := eq_of_exec (exec_frameSettings payload s) h
    exact settingsFrame_conds payload s
  case props =>
    obtain rfl := eq_of_exec (exec_reqThrAdvance false s) h
    rw [thrAdvance_false_of_c0 h0]
  case battery =>
    obtain rfl := eq_of_exec (exec_reqThrAdvance ack s) h
    rw [thrAdvance_of_c1_of_ne_zero h1 hbatt]
  case range =>
    obtain rfl := eq_of_exec (exec_decodeCal hstep) h
    exact calTick_conds_of_apply hstep
  case mode =>
    obtain rfl := eq_of_exec (exec_frameUnknown m payload s) h
    rw [unknownFrame_eq]
  case reserved =>
    obtain rfl := eq_of_exec (exec_reservedRequest hi s) h
    rw [takeCondition_conds]
  case codes => rfl

end Sys2Proof.Machine
end

section
/-! SUPPORT. The reset event of a script (70_reset_and_hazards.md): what it resets and what survives it (R240,
R241). -/

namespace Sys2Proof.Machine

/-- The reset event where the script goes on with `rest`: the elements of R240 are those of the reset state of the
current configuration (R241), and only the script and the free-value counter go on (assumption 19). -/
theorem applyReset_withPending (s : State) (rest : List Event) :
    applyReset { s with pending := rest } =
      { State.resetWith s.cfg with pending := rest, freeCount := s.freeCount } := rfl

/-- Settles O3: the step carries out the reset event, which leaves the reset state of the configuration. -/
theorem resetEventRestoresReset : Obligations.ResetEventRestoresReset := by
  intro s rest hpending
  rw [step_of_pending_reset hpending, applyReset_withPending]

end Sys2Proof.Machine
end
